-- ==== Sys2Proof/Word.lean ====
section
/-! DEFINITION. The word types of the engine (00_scope.md R8): unsigned values of 8, 32 and 64 bits.
The wrapping operators `+w`, `-w`, `*w` of 40_primitives.md R100 and R101 are `+`, `-`, `*` of `BitVec 64`. -/

namespace Sys2Proof

/-- `u8` (R8). -/
abbrev Byte := BitVec 8

/-- `u32` (R8). -/
abbrev Half := BitVec 32

/-- `u64` (R8). -/
abbrev Word := BitVec 64

/-- A byte sequence addressed by offset, as the formulas read it (R11: `rd*(S, off)` reads that sequence).
Only an argument of pure functions; State holds its bytes as plain data. -/
abbrev Bytes := Nat → Byte

end Sys2Proof
end

