-- ==== Sys2Proof/Config.lean ====
section
/-! DEFINITION. What is not state but configuration (10_state.md R36): the parameters of 00_scope.md R6 and R7, the
constants of 40_primitives.md R110 and the content of the Secret Table (10_state.md R29), as the fields of one
structure, and the values this hardware gives them; and the free values: constants with no body, so that nothing can be
proved of them beyond their type. A size that stands in a type of the model (`Word`, the eight accumulators, the 192
bytes of a secret) is written there as a literal, and Laws/Config.lean says that it is the value of its field (log 23). -/

namespace Sys2Proof

/-- Which secret the strategies for 0 to 240 bytes read under HASH64 (`SHORT_PATH_SECRET`, R7, R121). -/
inductive ShortPathSecret where
  /-- They read `KSEC`: the value of this hardware. -/
  | base
  /-- They read `ESEC`: the literal text of D0 (90_conflicts.md C1). -/
  | derived
deriving DecidableEq, Repr

/-- The configuration (10_state.md R36): what no step changes. -/
structure Config where
  /-- `SECRET_SIZE` (R6), bytes. -/
  secretSize : Nat
  /-- `SECRET_MIN` (R6), bytes. -/
  secretMin : Nat
  /-- `STRIPE_LEN` (R6), bytes. -/
  stripeLen : Nat
  /-- `NB_ACC` (R6). -/
  nbAcc : Nat
  /-- `LANE` (R6), bytes. -/
  lane : Nat
  /-- `STRIPES_PER_BLOCK` (R6), for the 192-byte secret. -/
  stripesPerBlock : Nat
  /-- `BLOCK_LEN` (R6), bytes, for the 192-byte secret. -/
  blockLen : Nat
  /-- The length-class bounds (R6): the largest length of each class but the last. -/
  len0Max : Nat
  len1_3Max : Nat
  len4_8Max : Nat
  len9_16Max : Nat
  len17_128Max : Nat
  len129_240Max : Nat
  /-- `DERIVE_BLOCKS` (R6). -/
  deriveBlocks : Nat
  /-- The width of the result (R6), bits. -/
  resultWidth : Nat
  /-- The width of the seed (R6), bits. -/
  seedWidth : Nat
  /-- `LEN_WIDTH` (R7), bits. -/
  lenWidth : Nat
  /-- `ADDR_WIDTH` (R7), bits. -/
  addrWidth : Nat
  /-- `HAS_CUSTOM_SECRET` (R7): the command HASH64S is built. -/
  hasCustomSecret : Bool
  /-- `CSEC_CAPACITY` (R7), bytes. -/
  csecCapacity : Nat
  /-- `HAS_SEED_CACHE` (R7): a cache of derived secrets is built. -/
  hasSeedCache : Bool
  /-- `N_ENGINES` (R7, R244): how many instances there are; State is one of them (log 19). -/
  nEngines : Nat
  /-- `SHORT_PATH_SECRET` (R7, R121). -/
  shortPathSecret : ShortPathSecret
  /-- Table CONST (R110). -/
  prime32_1 : Half
  prime32_2 : Half
  prime32_3 : Half
  prime64_1 : Word
  prime64_2 : Word
  prime64_3 : Word
  prime64_4 : Word
  prime64_5 : Word
  primeMx1 : Word
  primeMx2 : Word
  /-- `KSEC[0..191]`, the Secret Table (R29). -/
  ksec : Vector Byte 192
deriving DecidableEq, Repr

/-- Table KSEC (R29), 16 bytes a row, in increasing offset order. -/
def ksecTable : List Byte :=
  [0xB8, 0xFE, 0x6C, 0x39, 0x23, 0xA4, 0x4B, 0xBE, 0x7C, 0x01, 0x81, 0x2C, 0xF7, 0x21, 0xAD, 0x1C] ++
  [0xDE, 0xD4, 0x6D, 0xE9, 0x83, 0x90, 0x97, 0xDB, 0x72, 0x40, 0xA4, 0xA4, 0xB7, 0xB3, 0x67, 0x1F] ++
  [0xCB, 0x79, 0xE6, 0x4E, 0xCC, 0xC0, 0xE5, 0x78, 0x82, 0x5A, 0xD0, 0x7D, 0xCC, 0xFF, 0x72, 0x21] ++
  [0xB8, 0x08, 0x46, 0x74, 0xF7, 0x43, 0x24, 0x8E, 0xE0, 0x35, 0x90, 0xE6, 0x81, 0x3A, 0x26, 0x4C] ++
  [0x3C, 0x28, 0x52, 0xBB, 0x91, 0xC3, 0x00, 0xCB, 0x88, 0xD0, 0x65, 0x8B, 0x1B, 0x53, 0x2E, 0xA3] ++
  [0x71, 0x64, 0x48, 0x97, 0xA2, 0x0D, 0xF9, 0x4E, 0x38, 0x19, 0xEF, 0x46, 0xA9, 0xDE, 0xAC, 0xD8] ++
  [0xA8, 0xFA, 0x76, 0x3F, 0xE3, 0x9C, 0x34, 0x3F, 0xF9, 0xDC, 0xBB, 0xC7, 0xC7, 0x0B, 0x4F, 0x1D] ++
  [0x8A, 0x51, 0xE0, 0x4B, 0xCD, 0xB4, 0x59, 0x31, 0xC8, 0x9F, 0x7E, 0xC9, 0xD9, 0x78, 0x73, 0x64] ++
  [0xEA, 0xC5, 0xAC, 0x83, 0x34, 0xD3, 0xEB, 0xC3, 0xC5, 0x81, 0xA0, 0xFF, 0xFA, 0x13, 0x63, 0xEB] ++
  [0x17, 0x0D, 0xDD, 0x51, 0xB7, 0xF0, 0xDA, 0x49, 0xD3, 0x16, 0x55, 0x26, 0x29, 0xD4, 0x68, 0x9E] ++
  [0x2B, 0x16, 0xBE, 0x58, 0x7D, 0x47, 0xA1, 0xFC, 0x8F, 0xF8, 0xB8, 0xD1, 0x7A, 0xD0, 0x31, 0xCE] ++
  [0x45, 0xCB, 0x3A, 0x8F, 0x95, 0x16, 0x04, 0x28, 0xAF, 0xD7, 0xFB, 0xCA, 0xBB, 0x4B, 0x40, 0x7E]

/-- `N_ENGINES - 1`: R7 leaves the number open, but for at least 1. A free value, log 19. -/
opaque Config.furtherEngines : Nat

/-- The engine of this row: the values of R6, R7, R29 and R110. -/
abbrev Config.engine : Config where
  secretSize := 192
  secretMin := 136
  stripeLen := 64
  nbAcc := 8
  lane := 8
  stripesPerBlock := 16
  blockLen := 1024
  len0Max := 0
  len1_3Max := 3
  len4_8Max := 8
  len9_16Max := 16
  len17_128Max := 128
  len129_240Max := 240
  deriveBlocks := 12
  resultWidth := 64
  seedWidth := 64
  lenWidth := 64
  addrWidth := 64
  hasCustomSecret := true
  csecCapacity := 192
  hasSeedCache := false
  nEngines := Config.furtherEngines + 1
  shortPathSecret := .base
  prime32_1 := 0x9E3779B1#32
  prime32_2 := 0x85EBCA77#32
  prime32_3 := 0xC2B2AE3D#32
  prime64_1 := 0x9E3779B185EBCA87#64
  prime64_2 := 0xC2B2AE3D27D4EB4F#64
  prime64_3 := 0x165667B19E3779F9#64
  prime64_4 := 0x85EBCA77C2B2AE63#64
  prime64_5 := 0x27D4EB2F165667C5#64
  primeMx1 := 0x165667919E3779F9#64
  primeMx2 := 0x9FB21C651E98DF25#64
  ksec := ⟨ksecTable.toArray, rfl⟩

/-- `KSEC` as the sequence the formulas read (R29, R50); offsets from 192 on do not exist and every read is bounded
before it is made (R65). -/
def ksecBytes : Bytes := fun i => Config.engine.ksec.toList.getD i 0

/-! Free values (70_reset_and_hazards.md R263). DESIGN CHOICE log 4, log 5: safe, since a claim about one holds for
every value of it. -/

/-- A 64-bit value the spec leaves unspecified: a host read of U1, and `RESULT` under U2, U3 and U4. The argument is
the number of draws made before it. -/
opaque Config.freeWord : Nat → Word

/-- The two spaces a byte of which may hold no value (10_state.md R30, 20_memory.md R51). -/
inductive HostSpace where
  | input
  | csec
deriving DecidableEq, Repr

/-- A byte of `IN` or `CSEC` that holds no value because the host never wrote it (R30, R51): its space, the number of
draws made before the read, and its offset. Bytes of the two spaces at one offset are unrelated; that one
byte read twice with no draw in between is the same value is log 4. -/
opaque Config.freeByte : HostSpace → Nat → Nat → Byte

end Sys2Proof
end

