-- ==== Sys2Proof/Syntax.lean ====
section
/-! DEFINITION. The instructions: one constructor for every row of spec/opcode_table.json, with the operands its rule
lists. The four commands carry no operand in their word (30_encoding.md R82); the internal operations (R87) have no bit
encoding and the sequencer gives them their operands. -/

namespace Sys2Proof

/-- A secret operand (00_scope.md R14, 41_deriver.md R121): the byte sequence a formula reads as its secret. -/
inductive SecretOperand where
  /-- The Secret Table, 192 bytes (10_state.md R29). -/
  | ksec
  /-- The effective secret, 192 bytes (R31). -/
  | esec
  /-- The first `z` bytes of the custom secret (R30, 46_commands.md R211). -/
  | csec (z : Nat)
deriving DecidableEq, Repr

/-- The size `Z` of a secret operand (20_memory.md R65). -/
def SecretOperand.size : SecretOperand → Nat
  | .ksec => Config.engine.secretSize
  | .esec => Config.engine.secretSize
  | .csec z => z

/-- The seven targets of the dispatcher (42_dispatch_short.md R130). -/
inductive LenClass where
  | len0 | len1_3 | len4_8 | len9_16 | len17_128 | len129_240 | long
deriving DecidableEq, Repr

/-- The value `STATUS.LCLASS` shows for a class (10_state.md R24). -/
def LenClass.code : LenClass → BitVec 3
  | .len0 => 0 | .len1_3 => 1 | .len4_8 => 2 | .len9_16 => 3 | .len17_128 => 4 | .len129_240 => 5 | .long => 6

/-- `len_min` of the row of format `LEN` (30_encoding.md R83; the bounds of 00_scope.md R6). -/
def LenClass.lenMin : LenClass → Nat
  | .len0 => 0
  | .len1_3 => Config.engine.len0Max + 1
  | .len4_8 => Config.engine.len1_3Max + 1
  | .len9_16 => Config.engine.len4_8Max + 1
  | .len17_128 => Config.engine.len9_16Max + 1
  | .len129_240 => Config.engine.len17_128Max + 1
  | .long => Config.engine.len129_240Max + 1

/-- `len_max` of the row of format `LEN` (R83). -/
def LenClass.lenMax : LenClass → Nat
  | .len0 => Config.engine.len0Max
  | .len1_3 => Config.engine.len1_3Max
  | .len4_8 => Config.engine.len4_8Max
  | .len9_16 => Config.engine.len9_16Max
  | .len17_128 => Config.engine.len17_128Max
  | .len129_240 => Config.engine.len129_240Max
  | .long => 2 ^ Config.engine.lenWidth - 1

/-- The instructions of the engine. -/
inductive Instr where
  /-- NOP (R213). -/
  | nop
  /-- HASH64 (R210). -/
  | hash64
  /-- HASH64S (R211). -/
  | hash64s
  /-- CLEAR (R212). -/
  | clear
  /-- LEN0 (R131). -/
  | len0 (S : SecretOperand) (seed : Word)
  /-- LEN1_3 (R132). -/
  | len1_3 (n : Word) (S : SecretOperand) (seed : Word)
  /-- LEN4_8 (R133). -/
  | len4_8 (n : Word) (S : SecretOperand) (seed : Word)
  /-- LEN9_16 (R134). -/
  | len9_16 (n : Word) (S : SecretOperand) (seed : Word)
  /-- LEN17_128 (R150). -/
  | len17_128 (n : Word) (S : SecretOperand) (seed : Word)
  /-- LEN129_240 (R151). -/
  | len129_240 (n : Word) (S : SecretOperand) (seed : Word)
  /-- LONG (R175); it takes no seed operand (R121). -/
  | long (n : Word) (S : SecretOperand)
  /-- DERIVE (R120). -/
  | derive (seed : Word)
  /-- DISPATCH (R130). -/
  | dispatch (n : Word)
  /-- MIX16 (R108): the chunk of `IN` at `io` against the secret at `so`. -/
  | mix16 (io : Word) (S : SecretOperand) (so : Nat) (seed : Word)
  /-- INITACC (R170). -/
  | initacc
  /-- ACCUMULATE (R171): the stripe of `IN` at `io` against the secret at `so`. -/
  | accumulate (io : Word) (S : SecretOperand) (so : Nat)
  /-- SCRAMBLE (R172); its operand `Z` is the size of `S`. -/
  | scramble (S : SecretOperand)
  /-- STRIPELOOP (R173); its operand `Z` is the size of `S`. -/
  | stripeloop (n : Word) (S : SecretOperand)
  /-- MERGE (R174). -/
  | merge (n : Word) (S : SecretOperand)
  /-- AVALANCHE (R200). -/
  | avalanche (h : Word)
  /-- AVALANCHE64 (R201). -/
  | avalanche64 (h : Word)
  /-- RRMXMX (R202). -/
  | rrmxmx (h : Word) (len : Word)
deriving DecidableEq, Repr

end Sys2Proof
end

