-- ==== Sys2Proof/Machine/State.lean ====
section
/-! DEFINITION. The state of one engine and its host (10_state.md R20 to R31, 20_memory.md R50), the reasons a step can
stop, and the state after reset (R35). -/

namespace Sys2Proof.Machine

/-- `STATUS.STATE` (R24). -/
inductive EngineState where
  | idle | busy | done | fault
deriving DecidableEq, Repr

/-- `STATUS` (R24) by its three fields; every other bit reads 0 and no host write reaches any of them. -/
structure Status where
  state : EngineState
  fcode : BitVec 4
  lclass : BitVec 3
deriving DecidableEq, Repr

/-- `PHASE` (R26). -/
inductive Phase where
  | idle | check | derive | dispatch | short | mid | longBlock | longTail | longLast | merge | finish | done | fault
deriving DecidableEq, Repr

/-- The two hash commands (30_encoding.md R81). -/
inductive HashCommand where
  | hash64 | hash64s
deriving DecidableEq, Repr

/-- What the engine latches when it accepts a hash command (46_commands.md R210, R211, R216). DEDUCED log 2: safe. -/
structure Latch where
  cmd : HashCommand
  seed : Word
  len : Word
  bufsz : Word
  seclen : Half
deriving DecidableEq, Repr

/-- The width of a host access in bytes (20_memory.md R58). -/
inductive Width where
  | b1 | b2 | b4 | b8
deriving DecidableEq, Repr

/-- One move of the host or of the reset input, or a turn it leaves to the engine. DESIGN CHOICE log 1, log 8: the
order in which agents move is plain data. -/
inductive HostMove where
  /-- A write of the low bytes of `value` to `REG` at `off` (30_encoding.md R86, `WR`). -/
  | write (off : Nat) (width : Width) (value : Word)
  /-- A read of `REG` at `off` (R86, `RD`). -/
  | read (off : Nat) (width : Width)
  /-- A store of one byte of `IN` (R86, `IN off: b`). -/
  | store (off : Word) (b : Byte)
  /-- A read of one byte of `IN` (10_state.md R20). -/
  | load (off : Word)
  /-- No host access: the engine moves. -/
  | pass
  /-- `WAIT` (R88): poll `STATUS` until it is not BUSY. -/
  | wait
  /-- The reset input is asserted and released (70_reset_and_hazards.md R260). -/
  | reset
deriving DecidableEq, Repr

/-- What a host read returned. -/
inductive ReadBack where
  /-- A read of `REG`. -/
  | reg (off : Nat) (width : Width) (value : Word)
  /-- A read of one byte of `IN`. -/
  | input (off : Word) (b : Byte)
deriving DecidableEq, Repr

/-- A byte memory: (offset, byte) pairs in strictly rising order of offset. An offset that is not listed holds no value
(R30, R51). -/
abbrev Mem := List Host.Cell

/-- Why the model stops. None of these is a fault of the engine: those are states (60_exceptions.md R236). -/
inductive Fault where
  /-- An internal operation reads `IN` outside `0 .. LEN - 1`, which never happens in any rule and which R11 makes a
  fault of the model. Raised by the reads of Machine/Ops.lean; safe. -/
  | inputOverread (off : Nat)
  /-- An internal operation reads a secret operand outside its size, or a secret operand that is no operand of any
  rule (20_memory.md R65). Raised by the reads of Machine/Ops.lean; safe. -/
  | secretOverread (off : Nat)
  /-- An internal operation is issued with a length outside the operand line of its rule. Raised by the meanings of the
  strategies; safe. -/
  | operandRange
  /-- A host access at an offset outside the 512 bytes of `REG` (R58): there is no register there. Raised by
  Machine/HostPort.lean; safe. -/
  | outsideWindow (off : Nat)
deriving DecidableEq, Repr

/-- Why the model refuses. -/
inductive Refusal where
  /-- An instruction that has no meaning yet, by its mnemonic. Raised by no arm; safe. -/
  | notModelled (mnemonic : String)
  /-- A host access to `REG` of a width or an alignment that R58 leaves unspecified and asks a model to refuse (U5 of
  70_reset_and_hazards.md R263). Raised by Machine/HostPort.lean; safe. -/
  | unspecifiedAccess (off : Nat) (width : Width)
deriving DecidableEq, Repr

/-- The state. -/
structure State where
  /-- `STATUS` (R24). -/
  status : Status
  /-- `SEED` (R21). -/
  seed : Word
  /-- `LEN` (R21). -/
  len : Word
  /-- `BUFSZ` (R21). -/
  bufsz : Word
  /-- `SECLEN` (R21). -/
  seclen : Half
  /-- `RESULT` (R22). -/
  result : Word
  /-- `FAULTINFO` (R22). -/
  faultinfo : Word
  /-- `CSEC` (R30). -/
  csec : Mem
  /-- `PHASE` (R26). -/
  phase : Phase
  /-- `BLK` (R26), 64 bits. -/
  blk : Word
  /-- `STR` (R26), 5 bits. -/
  str : BitVec 5
  /-- `RND` (R26), 4 bits. -/
  rnd : BitVec 4
  /-- No round of P_MID remains (46_commands.md R216), which `RND` alone cannot say after sixteen rounds.
  DEDUCED log 9. -/
  roundsDone : Bool
  /-- The latched operands (R210, R211). -/
  latch : Latch
  /-- The class DISPATCH selected, as the code `STATUS.LCLASS` will show (42_dispatch_short.md R130). Log 13. -/
  nextClass : BitVec 3
  /-- `ACC` (R27). -/
  acc : Vector Word 8
  /-- `HACC` (R28). -/
  hacc : Word
  /-- `ESEC` (R31). -/
  esec : Vector Byte 192
  /-- The value the last internal operation returned (00_scope.md R13). DESIGN CHOICE log 12. -/
  out : Word
  /-- `RESULT` of the command in flight is unspecified (U2, U3, U4 of R263). DESIGN CHOICE log 4. -/
  tainted : Bool
  /-- How many free values have been drawn. DESIGN CHOICE log 5. -/
  draws : Nat
  /-- `IN` (20_memory.md R51), the host's memory. -/
  input : Mem
  /-- The moves still to come, first to move at the head. DESIGN CHOICE log 1. -/
  inbox : List HostMove
  /-- What host reads have returned, newest first. DESIGN CHOICE log 1. -/
  reads : List ReadBack
deriving DecidableEq, Repr

/-- The state after reset (R35, R260). The values R35 leaves unspecified (`RESULT`, `FAULTINFO`, `BLK`, `STR`, `RND`,
`ACC`, `HACC`, `ESEC`) and those of the model's own fields are DESIGN CHOICE log 3. -/
def State.reset : State where
  status := { state := .idle, fcode := 0, lclass := 7 }
  seed := 0
  len := 0
  bufsz := 0
  seclen := 0
  result := 0
  faultinfo := 0
  csec := []
  phase := .idle
  blk := 0
  str := 0
  rnd := 0
  roundsDone := false
  latch := { cmd := .hash64, seed := 0, len := 0, bufsz := 0, seclen := 0 }
  nextClass := 7
  acc := Vector.replicate 8 0
  hacc := 0
  esec := Vector.replicate 192 0
  out := 0
  tainted := false
  draws := 0
  input := []
  inbox := []
  reads := []

end Sys2Proof.Machine
end

