-- ==== Sys2Proof/Machine/Flags.lean ====
section
/-! DEFINITION. The engine has no condition flags (10_state.md R32); what stands here is the one word of status bits,
`STATUS` (R24), and the relation of its `STATE` to `PHASE` (46_commands.md R216). -/

namespace Sys2Proof.Machine

/-- The code of `STATUS.STATE` (R24). -/
def EngineState.code : EngineState → BitVec 2
  | .idle => 0 | .busy => 1 | .done => 2 | .fault => 3

/-- The 32-bit word a host reads as `STATUS` (R24): reserved bits 31:11 and 3:2 read 0. -/
def Status.word (t : Status) : Half := 0#21 ++ t.lclass ++ t.fcode ++ 0#2 ++ t.state.code

/-- P_IDLE is IDLE, P_DONE is DONE, P_FAULT is FAULT; every other phase is BUSY (R216). -/
def Phase.state : Phase → EngineState
  | .idle => .idle
  | .done => .done
  | .fault => .fault
  | .check | .derive | .dispatch | .short | .mid | .longBlock | .longTail | .longLast | .merge | .finish => .busy

/-- `LCLASS` = 7: none (R24). -/
abbrev lclassNone : BitVec 3 := 7

/-- The fault causes (60_exceptions.md R230). -/
abbrev fcodeNone : BitVec 4 := 0
abbrev fcodeOutOfBounds : BitVec 4 := 1
abbrev fcodeInvalidSecret : BitVec 4 := 2
abbrev fcodeIllegalCommand : BitVec 4 := 3

end Sys2Proof.Machine
end

