-- ==== Sys2Proof/WellFormed.lean ====
section
/-! DEFINITION. The operand line of each rule as a check: which operands an instruction may carry. The four commands
have none (30_encoding.md R82). -/

namespace Sys2Proof

/-- A secret operand that a strategy may read: `KSEC`, `ESEC`, or a custom secret of 136 to 192 bytes
(44_stripe_engine.md R173, R179; 60_exceptions.md R232). -/
def SecretOperand.wf : SecretOperand → Bool
  | .ksec => true
  | .esec => true
  | .csec z => decide (Config.engine.secretMin ≤ z ∧ z ≤ Config.engine.csecCapacity)

/-- `n` lies in the class (R83, R130). -/
def LenClass.has (c : LenClass) (n : Word) : Bool := decide (c.lenMin ≤ n.toNat ∧ n.toNat ≤ c.lenMax)

/-- The operands are those the rule of the instruction admits, as far as the instruction alone can say; that a chunk or
a stripe ends within `LEN` is checked against the state when it is read (20_memory.md R55). -/
def Instr.wf : Instr → Bool
  | .nop => true
  | .hash64 => true
  | .hash64s => true
  | .clear => true
  | .len0 S _ => S.wf
  | .len1_3 n S _ => LenClass.len1_3.has n && S.wf
  | .len4_8 n S _ => LenClass.len4_8.has n && S.wf
  | .len9_16 n S _ => LenClass.len9_16.has n && S.wf
  | .len17_128 n S _ => LenClass.len17_128.has n && S.wf
  | .len129_240 n S _ => LenClass.len129_240.has n && S.wf
  | .long n S => LenClass.long.has n && S.wf
  | .derive _ => true
  | .dispatch _ => true
  | .mix16 io S so _ => S.wf && decide (so + 16 ≤ S.size) && decide (io.toNat + 16 < 2 ^ Config.engine.addrWidth)
  | .initacc => true
  | .accumulate io S so => S.wf && decide (so + Config.engine.stripeLen ≤ S.size) &&
    decide (io.toNat + Config.engine.stripeLen < 2 ^ Config.engine.addrWidth)
  | .scramble S => S.wf
  | .stripeloop n S => LenClass.long.has n && S.wf
  | .merge n S => LenClass.long.has n && S.wf
  | .avalanche _ => true
  | .avalanche64 _ => true
  | .rrmxmx _ len => LenClass.len4_8.has len

end Sys2Proof
end

