-- ==== Sys2Proof/Decode.lean ====
section
/-! DEFINITION. The two decodes of the engine: the command word (30_encoding.md R80, R81, R84, R89), as a word and as
the bytes a host writes, with its encoder; and the length class (R83, 42_dispatch_short.md R130). -/

namespace Sys2Proof

/-- Why bytes are no command. -/
inductive DecodeError where
  /-- Fewer than the four bytes of a command word (R80: every command has this one length). -/
  | tooShort
  /-- An illegal word (R84): a bit of `CMD[31:8]` set, or `OP` above `0x03`. -/
  | illegalCommand (w : Half)
deriving DecidableEq, Repr

/-- `OP = CMD[7:0]` (R80). -/
def opField (w : Half) : Byte := w.extractLsb' 0 8

/-- `CMD[31:8]`, which must be zero (R80). -/
def reservedField (w : Half) : BitVec 24 := w.extractLsb' 8 24

/-- The decode procedure of R89, steps (1) and (2). -/
def decodeWord (w : Half) : Except DecodeError Instr :=
  if reservedField w ≠ 0 ∨ 0x03 < opField w then .error (.illegalCommand w)
  else if opField w = 0x00 then .ok .nop
  else if opField w = 0x01 then .ok .hash64
  else if opField w = 0x02 then .ok .hash64s
  else .ok .clear

/-- The 32-bit word at the head of a byte sequence, little-endian (20_memory.md R52, R58). -/
def wordOfBytes (b0 b1 b2 b3 : Byte) : Half := b3 ++ b2 ++ b1 ++ b0

/-- Decode the command at the head of a byte sequence; the rest is handed back. -/
def decode : List Byte → Except DecodeError (Instr × List Byte)
  | b0 :: b1 :: b2 :: b3 :: rest =>
    match decodeWord (wordOfBytes b0 b1 b2 b3) with
    | .ok i => .ok (i, rest)
    | .error e => .error e
  | [] => .error .tooShort
  | [_] => .error .tooShort
  | [_, _] => .error .tooShort
  | [_, _, _] => .error .tooShort

/-- The word of a command (R81); an internal operation has no bit encoding (R87). -/
def encodeWord : Instr → Option Half
  | .nop => some 0x00000000#32
  | .hash64 => some 0x00000001#32
  | .hash64s => some 0x00000002#32
  | .clear => some 0x00000003#32
  | .len0 _ _ => none
  | .len1_3 _ _ _ => none
  | .len4_8 _ _ _ => none
  | .len9_16 _ _ _ => none
  | .len17_128 _ _ _ => none
  | .len129_240 _ _ _ => none
  | .long _ _ => none
  | .derive _ => none
  | .dispatch _ => none
  | .mix16 _ _ _ _ => none
  | .initacc => none
  | .accumulate _ _ _ => none
  | .scramble _ => none
  | .stripeloop _ _ => none
  | .merge _ _ => none
  | .avalanche _ => none
  | .avalanche64 _ => none
  | .rrmxmx _ _ => none

/-- The four bytes of a word, least significant first (R52). -/
def bytesOfWord (w : Half) : List Byte :=
  [w.extractLsb' 0 8, w.extractLsb' 8 8, w.extractLsb' 16 8, w.extractLsb' 24 8]

/-- The bytes of a command as a host writes them to `CMD`. -/
def encode (i : Instr) : Option (List Byte) := (encodeWord i).map bytesOfWord

/-- The length-class decode (R83, R130): the one row with `len_min ≤ LEN ≤ len_max`. -/
def lengthClass (n : Word) : LenClass :=
  if n.toNat ≤ Config.engine.len0Max then .len0
  else if n.toNat ≤ Config.engine.len1_3Max then .len1_3
  else if n.toNat ≤ Config.engine.len4_8Max then .len4_8
  else if n.toNat ≤ Config.engine.len9_16Max then .len9_16
  else if n.toNat ≤ Config.engine.len17_128Max then .len17_128
  else if n.toNat ≤ Config.engine.len129_240Max then .len129_240
  else .long

/-- The strategy instruction of a class with its operands (R121, R130): `S` and `seed` for the strategies up to 240
bytes, `L` the secret operand of LONG. -/
def strategyInstr (n : Word) (S L : SecretOperand) (seed : Word) : Instr :=
  match lengthClass n with
  | .len0 => .len0 S seed
  | .len1_3 => .len1_3 n S seed
  | .len4_8 => .len4_8 n S seed
  | .len9_16 => .len9_16 n S seed
  | .len17_128 => .len17_128 n S seed
  | .len129_240 => .len129_240 n S seed
  | .long => .long n L

/-- The instruction the decoder reads from a table row's word `w` of `nbits` bits (at most the 32 of a command), the
bits above `nbits` being zero. -/
def decodeTableWord (nbits w : Nat) : Option Instr :=
  if 32 < nbits then none
  else
    match decode (bytesOfWord (BitVec.ofNat 32 (w % 2 ^ nbits))) with
    | .ok (i, _) => some i
    | .error _ => none

end Sys2Proof
end

