-- ==== Sys2Proof/Machine/Primitives.lean ====
section
/-! DEFINITION. Typed reads of byte sequences (20_memory.md R52), the arithmetic primitives (40_primitives.md R102 to
R106), the 16-byte mixer (R108) and the three finishers (45_finishers.md R200 to R202), as pure functions (00_scope.md
R13). -/

namespace Sys2Proof.Machine

/-- `rd32` (R52): four bytes, the one at the lowest offset least significant. -/
def rd32 (X : Bytes) (o : Nat) : Half := X (o + 3) ++ X (o + 2) ++ X (o + 1) ++ X o

/-- `rd64` (R52): eight bytes, the one at the lowest offset least significant. -/
def rd64 (X : Bytes) (o : Nat) : Word :=
  X (o + 7) ++ X (o + 6) ++ X (o + 5) ++ X (o + 4) ++ X (o + 3) ++ X (o + 2) ++ X (o + 1) ++ X o

/-- `v[8k+7 : 8k]` (R52). -/
def byteOf (v : Word) (k : Nat) : Byte := v.extractLsb' (8 * k) 8

/-- The low half `v[31:0]` (R8). -/
def lowHalf (v : Word) : Half := v.extractLsb' 0 32

/-- The high half `v[63:32]` (R8). -/
def highHalf (v : Word) : Half := v.extractLsb' 32 32

/-- `mul32` (R102). -/
def mul32 (x : Word) : Word := (lowHalf x).setWidth 64 * (highHalf x).setWidth 64

/-- `fold64` (R103). -/
def fold64 (a b : Word) : Word :=
  let p : BitVec 128 := a.setWidth 128 * b.setWidth 128
  p.extractLsb' 0 64 ^^^ p.extractLsb' 64 64

/-- `xorshift` (R104). -/
def xorshift (x : Word) (s : Nat) : Word := x ^^^ (x >>> s)

/-- `rotl64` (R105). -/
def rotl64 (x : Word) (r : Nat) : Word := (x <<< r) ||| (x >>> (64 - r))

/-- `swap32` (R106). -/
def swap32 (x : Half) : Half :=
  x.extractLsb' 0 8 ++ x.extractLsb' 8 8 ++ x.extractLsb' 16 8 ++ x.extractLsb' 24 8

/-- `swap64` (R106). -/
def swap64 (x : Word) : Word :=
  byteOf x 0 ++ byteOf x 1 ++ byteOf x 2 ++ byteOf x 3 ++ byteOf x 4 ++ byteOf x 5 ++ byteOf x 6 ++ byteOf x 7

/-- MIX16 (R108). -/
def mix16 (inp : Bytes) (io : Nat) (S : Bytes) (so : Nat) (seed : Word) : Word :=
  fold64 (rd64 inp io ^^^ (rd64 S so + seed)) (rd64 inp (io + 8) ^^^ (rd64 S (so + 8) - seed))

/-- AVALANCHE (R200). -/
def avalanche (h : Word) : Word :=
  let h1 := xorshift h 37
  let h2 := h1 * Config.engine.primeMx1
  xorshift h2 32

/-- AVALANCHE64 (R201). -/
def avalanche64 (h : Word) : Word :=
  let h1 := xorshift h 33
  let h2 := h1 * Config.engine.prime64_2
  let h3 := xorshift h2 29
  let h4 := h3 * Config.engine.prime64_3
  xorshift h4 32

/-- RRMXMX (R202). -/
def rrmxmx (h len : Word) : Word :=
  let h1 := h ^^^ rotl64 h 49 ^^^ rotl64 h 24
  let h2 := h1 * Config.engine.primeMx2
  let h3 := h2 ^^^ ((h2 >>> 35) + len)
  let h4 := h3 * Config.engine.primeMx2
  xorshift h4 28

end Sys2Proof.Machine
end

