-- ==== Sys2Proof/Machine/Deriver.lean ====
section
/-! DEFINITION. The Seed-to-Secret Deriver as a pure function (41_deriver.md R120). -/

namespace Sys2Proof.Machine

/-- The word the deriver writes at offset `8 * w` (R120): the seed added to the first word of a 16-byte block and
subtracted from the second. -/
def derivedWord (S : Bytes) (seed : Word) (w : Nat) : Word :=
  if w % 2 = 0 then rd64 S (8 * w) + seed else rd64 S (8 * w) - seed

/-- The byte the deriver writes at offset `i` (R52, R120). -/
def derivedByte (S : Bytes) (seed : Word) : Bytes := fun i => byteOf (derivedWord S seed (i / 8)) (i % 8)

/-- `derive(secret, seed)` (R120): all 12 blocks of 16 bytes. -/
def deriveSecret (S : Bytes) (seed : Word) : Vector Byte 192 := Vector.ofFn fun i => derivedByte S seed i.val

/-- A 192-byte vector as a byte sequence. -/
def bytesOf (v : Vector Byte 192) : Bytes := fun i => v.toList.getD i 0

end Sys2Proof.Machine
end

