-- ==== Sys2Proof/Machine/Strategies.lean ====
section
/-! DEFINITION. The strategies for 0 to 240 bytes as pure functions of input, secret, length and seed
(42_dispatch_short.md, 43_dispatch_mid.md). A short strategy is its keyed value and its finisher apart, as Table PHASE
(46_commands.md R216) runs them. -/

namespace Sys2Proof.Machine

/-- The keyed value of LEN0 (R131). -/
def keyedLen0 (S : Bytes) (seed : Word) : Word := seed ^^^ (rd64 S 56 ^^^ rd64 S 64)

/-- The packing of LEN1_3 (R132). -/
def combinedLen1_3 (inp : Bytes) (n : Word) : Half :=
  let c1 := (inp 0).setWidth 32
  let c2 := (inp (n >>> 1).toNat).setWidth 32
  let c3 := (inp (n.toNat - 1)).setWidth 32
  (c1 <<< 16) ||| (c2 <<< 24) ||| c3 ||| (lowHalf n <<< 8)

/-- The keyed value of LEN1_3 (R132). -/
def keyedLen1_3 (inp : Bytes) (n : Word) (S : Bytes) (seed : Word) : Word :=
  (combinedLen1_3 inp n).setWidth 64 ^^^ ((rd32 S 0 ^^^ rd32 S 4).setWidth 64 + seed)

/-- The keyed value of LEN4_8 (R133). -/
def keyedLen4_8 (inp : Bytes) (n : Word) (S : Bytes) (seed : Word) : Word :=
  let seed2 := seed ^^^ ((swap32 (lowHalf seed)).setWidth 64 <<< 32)
  let in1 := rd32 inp 0
  let in2 := rd32 inp (n.toNat - 4)
  let bitflip := (rd64 S 8 ^^^ rd64 S 16) - seed2
  (in2.setWidth 64 ||| (in1.setWidth 64 <<< 32)) ^^^ bitflip

/-- The sum LEN9_16 hands to its finisher (R134). -/
def keyedLen9_16 (inp : Bytes) (n : Word) (S : Bytes) (seed : Word) : Word :=
  let bitflip1 := (rd64 S 24 ^^^ rd64 S 32) + seed
  let bitflip2 := (rd64 S 40 ^^^ rd64 S 48) - seed
  let lo := rd64 inp 0 ^^^ bitflip1
  let hi := rd64 inp (n.toNat - 8) ^^^ bitflip2
  n + swap64 lo + hi + fold64 lo hi

/-- LEN0 (R131). -/
def hashLen0 (S : Bytes) (seed : Word) : Word := avalanche64 (keyedLen0 S seed)

/-- LEN1_3 (R132). -/
def hashLen1_3 (inp : Bytes) (n : Word) (S : Bytes) (seed : Word) : Word := avalanche64 (keyedLen1_3 inp n S seed)

/-- LEN4_8 (R133). -/
def hashLen4_8 (inp : Bytes) (n : Word) (S : Bytes) (seed : Word) : Word := rrmxmx (keyedLen4_8 inp n S seed) n

/-- LEN9_16 (R134). -/
def hashLen9_16 (inp : Bytes) (n : Word) (S : Bytes) (seed : Word) : Word := avalanche (keyedLen9_16 inp n S seed)

/-- The rounds of LEN17_128: `ceil(n / 32)` (R150). -/
def roundsLen17_128 (n : Nat) : Nat := (n + 31) / 32

/-- `HACC` of LEN17_128 before its finisher (R150): both chunks of every round added to `n *w PRIME64_1`. -/
def sumLen17_128 (inp : Bytes) (n : Word) (S : Bytes) (seed : Word) : Word :=
  (List.range (roundsLen17_128 n.toNat)).foldl
    (fun h i => h + mix16 inp (16 * i) S (32 * i) seed + mix16 inp (n.toNat - 16 * (i + 1)) S (32 * i + 16) seed)
    (n * Config.engine.prime64_1)

/-- LEN17_128 (R150). -/
def hashLen17_128 (inp : Bytes) (n : Word) (S : Bytes) (seed : Word) : Word := avalanche (sumLen17_128 inp n S seed)

/-- The rounds of LEN129_240: one a chunk, and the last one (R151). -/
def roundsLen129_240 (n : Nat) : Nat := n / 16 + 1

/-- `HACC` of LEN129_240 before its last finisher (R151): eight rounds, AVALANCHE, the further rounds, the last
round. -/
def sumLen129_240 (inp : Bytes) (n : Word) (S : Bytes) (seed : Word) : Word :=
  let first := (List.range 8).foldl (fun h i => h + mix16 inp (16 * i) S (16 * i) seed) (n * Config.engine.prime64_1)
  let further := (List.range (n.toNat / 16 - 8)).foldl
    (fun h j => h + mix16 inp (16 * (j + 8)) S (16 * j + 3) seed) (avalanche first)
  further + mix16 inp (n.toNat - 16) S 119 seed

/-- LEN129_240 (R151). -/
def hashLen129_240 (inp : Bytes) (n : Word) (S : Bytes) (seed : Word) : Word := avalanche (sumLen129_240 inp n S seed)

end Sys2Proof.Machine
end

