-- ==== Sys2Proof/Machine/StripeEngine.lean ====
section
/-! DEFINITION. The Stripe Accumulation Engine as pure functions (44_stripe_engine.md R170 to R175, R179). -/

namespace Sys2Proof.Machine

/-- The accumulators after INITACC (R170), lane 0 first. -/
def initAcc : Vector Word 8 :=
  #v[Config.engine.prime32_3.setWidth 64, Config.engine.prime64_1, Config.engine.prime64_2, Config.engine.prime64_3,
    Config.engine.prime64_4, Config.engine.prime32_2.setWidth 64, Config.engine.prime64_5, Config.engine.prime32_1.setWidth 64]

/-- The lane whose data word lane `j` also receives: `j ^ 1` (R171). -/
def neighbour (j : Nat) : Nat := if j % 2 = 0 then j + 1 else j - 1

/-- ACCUMULATE (R171), all lanes from the old accumulators. -/
def accumulate (inp : Bytes) (io : Nat) (S : Bytes) (so : Nat) (acc : Vector Word 8) : Vector Word 8 :=
  Vector.ofFn fun j =>
    acc[j] + rd64 inp (io + Config.engine.lane * neighbour j.val) +
      mul32 (rd64 inp (io + Config.engine.lane * j.val) ^^^ rd64 S (so + Config.engine.lane * j.val))

/-- The sequential loop R171 also gives for ACCUMULATE. -/
def accumulateLoop (inp : Bytes) (io : Nat) (S : Bytes) (so : Nat) (acc : Vector Word 8) : Vector Word 8 :=
  (List.range Config.engine.nbAcc).foldl
    (fun a i =>
      let dv := rd64 inp (io + Config.engine.lane * i)
      let b := a.set! (neighbour i) (a.getD (neighbour i) 0 + dv)
      b.set! i (b.getD i 0 + mul32 (dv ^^^ rd64 S (so + Config.engine.lane * i))))
    acc

/-- SCRAMBLE (R172). -/
def scramble (S : Bytes) (Z : Nat) (acc : Vector Word 8) : Vector Word 8 :=
  Vector.ofFn fun j => (xorshift acc[j] 47 ^^^ rd64 S (Z - Config.engine.stripeLen + Config.engine.lane * j.val)) *
    Config.engine.prime32_1.setWidth 64

/-- `nspb`: the stripes of a block (R173, R179). -/
def stripesPerBlock (Z : Nat) : Nat := (Z - Config.engine.stripeLen) / 8

/-- `blk_len` (R173). -/
def blockLen (Z : Nat) : Nat := Config.engine.stripeLen * stripesPerBlock Z

/-- `nb_blocks` (R173). -/
def fullBlocks (n Z : Nat) : Nat := (n - 1) / blockLen Z

/-- `nstr` (R173): the full stripes of the last, partial block. -/
def tailStripes (n Z : Nat) : Nat := ((n - 1) - blockLen Z * fullBlocks n Z) / Config.engine.stripeLen

/-- `k` stripes from input offset `io` on, the secret advancing 8 bytes a stripe (R173). -/
def stripes (inp : Bytes) (io : Nat) (S : Bytes) (k : Nat) (acc : Vector Word 8) : Vector Word 8 :=
  (List.range k).foldl (fun a s => accumulate inp (io + Config.engine.stripeLen * s) S (8 * s) a) acc

/-- The first `k` full blocks, each with its SCRAMBLE (R173). -/
def blocks (inp : Bytes) (S : Bytes) (Z : Nat) (k : Nat) (acc : Vector Word 8) : Vector Word 8 :=
  (List.range k).foldl
    (fun a b => scramble S Z (stripes inp (b * blockLen Z) S (stripesPerBlock Z) a)) acc

/-- STRIPELOOP (R173). -/
def stripeLoop (inp : Bytes) (n : Nat) (S : Bytes) (Z : Nat) (acc : Vector Word 8) : Vector Word 8 :=
  accumulate inp (n - Config.engine.stripeLen) S (Z - Config.engine.stripeLen - 7)
    (stripes inp (fullBlocks n Z * blockLen Z) S (tailStripes n Z) (blocks inp S Z (fullBlocks n Z) acc))

/-- One operation of the stripe schedule. -/
inductive StripeOp where
  | accumulate (io so : Nat)
  | scramble
deriving DecidableEq, Repr

/-- The schedule of R173 as the list of the operations it issues, in order. -/
def stripeSchedule (n Z : Nat) : List StripeOp :=
  (List.range (fullBlocks n Z)).flatMap (fun b =>
    (List.range (stripesPerBlock Z)).map (fun s => .accumulate (b * blockLen Z + Config.engine.stripeLen * s) (8 * s)) ++ [.scramble]) ++
  (List.range (tailStripes n Z)).map (fun s =>
    .accumulate (fullBlocks n Z * blockLen Z + Config.engine.stripeLen * s) (8 * s)) ++
  [.accumulate (n - Config.engine.stripeLen) (Z - Config.engine.stripeLen - 7)]

/-- What an operation of the schedule does to the accumulators. -/
def StripeOp.apply (inp : Bytes) (S : Bytes) (Z : Nat) (acc : Vector Word 8) : StripeOp → Vector Word 8
  | .accumulate io so => Sys2Proof.Machine.accumulate inp io S so acc
  | .scramble => Sys2Proof.Machine.scramble S Z acc

/-- `HACC` of MERGE before its finisher (R174). -/
def mergeSum (n : Word) (S : Bytes) (acc : Vector Word 8) : Word :=
  (List.range 4).foldl
    (fun h p => h + fold64 (acc.getD (2 * p) 0 ^^^ rd64 S (11 + 16 * p)) (acc.getD (2 * p + 1) 0 ^^^ rd64 S (19 + 16 * p)))
    (n * Config.engine.prime64_1)

/-- MERGE (R174). -/
def mergeAcc (n : Word) (S : Bytes) (acc : Vector Word 8) : Word := avalanche (mergeSum n S acc)

/-- LONG (R175). -/
def hashLong (inp : Bytes) (n : Word) (S : Bytes) (Z : Nat) : Word :=
  mergeAcc n S (stripeLoop inp n.toNat S Z initAcc)

end Sys2Proof.Machine
end

