-- ==== Sys2Proof/Machine/HashFunction.lean ====
section
/-! DEFINITION. The function the two hash commands compute, without registers (46_commands.md R215), and what each
class reads of `IN` and of its secret (20_memory.md R55, R65). -/

namespace Sys2Proof.Machine

/-- The selection of R210 and R211: the strategy of the class of `n` with secret `S` and seed `sd`, LONG with the
secret `L` of `Z` bytes. -/
def selectHash (inp : Bytes) (n : Word) (S : Bytes) (sd : Word) (L : Bytes) (Z : Nat) : Word :=
  match lengthClass n with
  | .len0 => hashLen0 S sd
  | .len1_3 => hashLen1_3 inp n S sd
  | .len4_8 => hashLen4_8 inp n S sd
  | .len9_16 => hashLen9_16 inp n S sd
  | .len17_128 => hashLen17_128 inp n S sd
  | .len129_240 => hashLen129_240 inp n S sd
  | .long => hashLong inp n L Z

/-- The effective secret of a seed (R120): `KSEC` derived. -/
def effectiveSecret (seed : Word) : Bytes := bytesOf (deriveSecret ksecBytes seed)

/-- The secret of the strategies for 0 to 240 bytes under HASH64 (R121). -/
def shortSecret (p : ShortPathSecret) (seed : Word) : Bytes :=
  match p with
  | .base => ksecBytes
  | .derived => effectiveSecret seed

/-- `hash64(bytes, n, seed)` (R210, R215) under a reading of `SHORT_PATH_SECRET`. -/
def hash64 (p : ShortPathSecret) (inp : Bytes) (n seed : Word) : Word :=
  selectHash inp n (shortSecret p seed) seed (effectiveSecret seed) Config.engine.secretSize

/-- `hash64s(bytes, n, secret)` for a secret of `Z` bytes (R211, R215). -/
def hash64s (inp : Bytes) (n : Word) (secret : Bytes) (Z : Nat) : Word := selectHash inp n secret 0 secret Z

/-- The reads of `IN` that a class makes, as (offset, length) pairs (R55). -/
def inputReads (n : Nat) : LenClass → List (Nat × Nat)
  | .len0 => []
  | .len1_3 => [(0, 1), (n / 2, 1), (n - 1, 1)]
  | .len4_8 => [(0, 4), (n - 4, 4)]
  | .len9_16 => [(0, 8), (n - 8, 8)]
  | .len17_128 =>
    (List.range (roundsLen17_128 n)).flatMap fun i => [(16 * i, 16), (n - 16 * (i + 1), 16)]
  | .len129_240 => (List.range (n / 16)).map (fun i => (16 * i, 16)) ++ [(n - 16, 16)]
  | .long => (List.range ((n - 1) / Config.engine.stripeLen)).map
      (fun j => (Config.engine.stripeLen * j, Config.engine.stripeLen)) ++
    [(n - Config.engine.stripeLen, Config.engine.stripeLen)]

/-- The reads of the secret that a class up to 240 bytes makes (R65). -/
def secretReads (n : Nat) : LenClass → List (Nat × Nat)
  | .len0 => [(56, 8), (64, 8)]
  | .len1_3 => [(0, 4), (4, 4)]
  | .len4_8 => [(8, 8), (16, 8)]
  | .len9_16 => [(24, 8), (32, 8), (40, 8), (48, 8)]
  | .len17_128 => (List.range (roundsLen17_128 n)).flatMap fun i => [(32 * i, 16), (32 * i + 16, 16)]
  | .len129_240 =>
    (List.range 8).map (fun i => (16 * i, 16)) ++ (List.range (n / 16 - 8)).map (fun j => (16 * j + 3, 16)) ++ [(119, 16)]
  | .long => []

/-- The reads of a secret of `Z` bytes that STRIPELOOP makes (R65, R173). -/
def stripeSecretReads (n Z : Nat) : List (Nat × Nat) :=
  if fullBlocks n Z = 0 then
    (List.range (tailStripes n Z)).map (fun s => (8 * s, Config.engine.stripeLen)) ++
      [(Z - Config.engine.stripeLen - 7, Config.engine.stripeLen)]
  else
    (List.range (stripesPerBlock Z)).map (fun s => (8 * s, Config.engine.stripeLen)) ++
      [(Z - Config.engine.stripeLen, Config.engine.stripeLen),
        (Z - Config.engine.stripeLen - 7, Config.engine.stripeLen)]

end Sys2Proof.Machine
end

