-- ==== Sys2Proof/Machine/Operands.lean ====
section
/-! DEFINITION. Operand forms: which secret and seed a strategy receives (41_deriver.md R121), and which register a
host access reaches (20_memory.md R58). -/

namespace Sys2Proof.Machine

/-- The secret operand of a strategy of class `c` for a command with a secret length of `z` (R121). -/
def secretFor (p : ShortPathSecret) (cmd : HashCommand) (z : Nat) (c : LenClass) : SecretOperand :=
  match cmd with
  | .hash64s => .csec z
  | .hash64 =>
    match c with
    | .long => .esec
    | .len0 | .len1_3 | .len4_8 | .len9_16 | .len17_128 | .len129_240 =>
      match p with
      | .base => .ksec
      | .derived => .esec

/-- The seed operand of every strategy (R121): the latched `SEED` under HASH64, 0 under HASH64S. -/
def seedFor (cmd : HashCommand) (seed : Word) : Word :=
  match cmd with
  | .hash64 => seed
  | .hash64s => 0

/-- The secret operand of the command in flight. -/
def State.secretOperand (s : State) : SecretOperand :=
  secretFor Config.engine.shortPathSecret s.latch.cmd s.latch.seclen.toNat (lengthClass s.latch.len)

/-- The seed operand of the command in flight. -/
def State.seedOperand (s : State) : Word := seedFor s.latch.cmd s.latch.seed

/-- Bytes of a host access (R58). -/
def Width.bytes : Width → Nat
  | .b1 => 1 | .b2 => 2 | .b4 => 4 | .b8 => 8

/-- What a host access to `REG` reaches (R58). -/
inductive RegTarget where
  | cmd | status | seed | len | bufsz | seclen | result | faultinfo
  /-- Bytes of `CSEC` from offset `k` on. -/
  | csec (k : Nat)
  /-- A reserved offset: reads 0, ignores writes. -/
  | reserved
deriving DecidableEq, Repr

/-- The accesses R58 specifies; `none` is an access it leaves unspecified or that lies outside the window. The upper
four bytes beside each 32-bit register are reserved offsets as well (R58, 92_eei_decisions.md D28). DEDUCED log 7. -/
def regTarget (off : Nat) (w : Width) : Option RegTarget :=
  if off = 0x000 ∧ w = .b4 then some .cmd
  else if off = 0x008 ∧ w = .b4 then some .status
  else if off = 0x010 ∧ w = .b8 then some .seed
  else if off = 0x018 ∧ w = .b8 then some .len
  else if off = 0x020 ∧ w = .b8 then some .bufsz
  else if off = 0x028 ∧ w = .b4 then some .seclen
  else if off = 0x030 ∧ w = .b8 then some .result
  else if off = 0x038 ∧ w = .b8 then some .faultinfo
  else if off % w.bytes ≠ 0 then none
  else if 0x100 ≤ off ∧ off < 0x100 + Config.engine.csecCapacity then some (.csec (off - 0x100))
  else if (0x040 ≤ off ∧ off < 0x100) ∨ (0x1C0 ≤ off ∧ off < 0x200) then some .reserved
  else if (0x004 ≤ off ∧ off < 0x008) ∨ (0x00C ≤ off ∧ off < 0x010) ∨ (0x02C ≤ off ∧ off < 0x030) then
    some .reserved
  else none

end Sys2Proof.Machine
end

