-- ==== Sys2Proof/Machine/Ops.lean ====
section
/-! DEFINITION. The shared operations over memory and registers: byte memories, the bounded reads of `IN` and of a
secret operand, and the transitions of `STATUS`: acceptance, fault entry, acknowledge, completion, reset. -/

namespace Sys2Proof.Machine

/-- The outcome of a machine operation. -/
abbrev Result := Host.Outcome State Fault Refusal

/-- Run `f` on the next state; a stop stays a stop. -/
def andThen (o : Result) (f : State → Result) : Result :=
  match o with
  | .next s => f s
  | .fault r => .fault r
  | .refused r => .refused r

/-! ### Byte memories (R30, R50, R51) -/

/-- The byte at an offset; `none` where no byte was ever written. -/
def Mem.read? : Mem → Nat → Option Byte
  | [], _ => none
  | (k, b) :: m, a => if a = k then some b else Mem.read? m a

/-- Set the byte at an offset, keeping the offsets strictly rising. -/
def Mem.write : Mem → Nat → Byte → Mem
  | [], a, v => [(a, v)]
  | (k, b) :: m, a, v =>
    if a < k then (a, v) :: (k, b) :: m
    else if a = k then (a, v) :: m
    else (k, b) :: Mem.write m a v

/-- The canonical form: offsets strictly rise. (An unlisted offset holds no value, so no listed entry repeats it.) -/
abbrev Mem.wf (m : Mem) : Prop := List.Pairwise (fun a b => a.1 < b.1) m

/-- Every byte of `off .. off + k - 1` holds a value. -/
def Mem.known (m : Mem) (off k : Nat) : Bool := (List.range k).all fun i => (Mem.read? m (off + i)).isSome

/-- Write the low `k` bytes of `v`, least significant first (R52). -/
def Mem.writeBytes (m : Mem) (off : Nat) (v : Word) : Nat → Mem
  | 0 => m
  | k + 1 => Mem.write (Mem.writeBytes m off v k) (off + k) (byteOf v k)

/-! ### What the engine reads (R50, R52) -/

/-- `IN` as the engine sees it; a byte that holds no value is a free one, the same at each read until the next draw
(R51, DESIGN CHOICE log 4). -/
def State.inputBytes (s : State) : Bytes := fun a => (Mem.read? s.input a).getD (Config.freeByte .input s.draws a)

/-- A secret operand as the engine sees it; a byte of `CSEC` that holds no value is a free one, the same at each read
until the next draw, and unrelated to the byte of `IN` at that offset (R30, DESIGN CHOICE log 4). -/
def State.secretBytes (s : State) : SecretOperand → Bytes
  | .ksec => ksecBytes
  | .esec => bytesOf s.esec
  | .csec _ => fun a => (Mem.read? s.csec a).getD (Config.freeByte .csec s.draws a)

/-- Every byte of the secret operand at `off .. off + k - 1` holds a value. -/
def State.secretKnown (s : State) : SecretOperand → Nat → Nat → Bool
  | .ksec, _, _ => true
  | .esec, _, _ => true
  | .csec _, off, k => Mem.known s.csec off k

/-- Note that `RESULT` of the command in flight is unspecified, if `b` (R263, log 4). -/
def mark (b : Bool) (s : State) : State := { s with tainted := s.tainted || b }

/-- An internal operation returns the value `v` (00_scope.md R13, log 12). -/
def setOut (v : Word) (s : State) : State := { s with out := v }

/-- `ACC <- a` (10_state.md R27). -/
def setAcc (a : Vector Word 8) (s : State) : State := { s with acc := a }

/-- `HACC <- h` (R28). -/
def setHacc (h : Word) (s : State) : State := { s with hacc := h }

/-- `BLK <- b; STR <- k` (R26). -/
def setBlock (b : Word) (k : BitVec 5) (s : State) : State := { s with blk := b, str := k }

/-- `RND <- r` (R26). -/
def setRnd (r : BitVec 4) (s : State) : State := { s with rnd := r }

/-- A read of `k` bytes of `IN` at `off` by the command in flight (R11, R55): outside `0 .. LEN - 1` it is a fault of
the model; a byte that holds no value makes `RESULT` unspecified (U2, log 4). -/
def readInput (off k : Nat) (s : State) : Result :=
  if off + k ≤ s.latch.len.toNat then .next (mark (!Mem.known s.input off k) s)
  else .fault (.inputOverread off)

/-- A read of `k` bytes of a secret operand at `off` (R65); a byte of `CSEC` that holds no value makes `RESULT`
unspecified (U3, log 4). -/
def readSecret (S : SecretOperand) (off k : Nat) (s : State) : Result :=
  if S.wf = true ∧ off + k ≤ S.size then .next (mark (!s.secretKnown S off k) s)
  else .fault (.secretOverread off)

/-- The reads of `IN` in a list, in order. -/
def readInputs : List (Nat × Nat) → State → Result
  | [], s => .next s
  | (off, k) :: rest, s => andThen (readInput off k s) (readInputs rest)

/-- The reads of a secret operand in a list, in order. -/
def readSecrets (S : SecretOperand) : List (Nat × Nat) → State → Result
  | [], s => .next s
  | (off, k) :: rest, s => andThen (readSecret S off k s) (readSecrets S rest)

/-- The operand line of a strategy's rule: its length lies in its class. -/
def requireClass (c : LenClass) (n : Word) (s : State) : Result :=
  if c.has n then .next s else .fault .operandRange

/-! ### Transitions of STATUS and PHASE -/

/-- Move the sequencer (00_scope.md R10, `PHASE <- p`). -/
def goto (p : Phase) (s : State) : State := { s with phase := p }

/-- Fault entry, `raise Fault(code, info)` (60_exceptions.md R236): `FAULTINFO`, then `STATUS` and `PHASE` at once.
DESIGN CHOICE (U6 of 70_reset_and_hazards.md R263, log 24): the scratch of R26, R27, R28 and R31, unspecified between
commands, keeps its last content; so does `RESULT` (log 5). -/
def raiseFault (code : BitVec 4) (info : Word) (s : State) : State :=
  { s with
    faultinfo := info
    status := { state := .fault, fcode := code, lclass := lclassNone }
    phase := .fault }

/-- The way out of DONE and FAULT (R237, 46_commands.md R212): back to IDLE.
DESIGN CHOICE (U6 of 70_reset_and_hazards.md R263, log 24): the scratch of R26, R27, R28 and R31, unspecified between
commands, keeps its last content; so do `RESULT` and `FAULTINFO` (log 5). -/
def acknowledge (s : State) : State :=
  { s with
    status := { state := .idle, fcode := fcodeNone, lclass := lclassNone }
    phase := .idle }

/-- Acceptance of a hash command (R210, R211, R216): the operands are latched, `STATE` becomes BUSY.
DESIGN CHOICE (U6 of 70_reset_and_hazards.md R263, log 24): the scratch of R26, R27, R28 and R31, unspecified between
commands, keeps its last content until the command writes it; so do `RESULT` and `FAULTINFO` (log 5). -/
def accept (cmd : HashCommand) (s : State) : State :=
  { s with
    latch := { cmd := cmd, seed := s.seed, len := s.len, bufsz := s.bufsz, seclen := s.seclen }
    status := { state := .busy, fcode := fcodeNone, lclass := lclassNone }
    phase := .check
    tainted := false }

/-- Completion (R210): `RESULT`, `LCLASS` and `STATE` in one update. Where R263 leaves `RESULT` unspecified (U2, U3,
U4) it is a free value and the command still reaches DONE.
DESIGN CHOICE (U6 of R263, log 24): the scratch of 10_state.md R26, R27, R28 and R31, unspecified from here on, keeps its
last content; so does `FAULTINFO` (log 5). -/
def complete (s : State) : State :=
  { s with
    result := if s.tainted then Config.freeWord s.draws else s.out
    draws := if s.tainted then s.draws + 1 else s.draws
    status := { state := .done, fcode := fcodeNone, lclass := s.nextClass }
    phase := .done }

/-- The reset event (70_reset_and_hazards.md R260): the engine's state is that of R35; `IN` is the host's (R20) and
stays, as do the queue of moves, what the host has read, and the count of draws. Log 16. -/
def resetEngine (s : State) : State :=
  { State.reset with
    input := s.input
    inbox := s.inbox
    reads := s.reads
    draws := s.draws }

/-- A word that is no command (30_encoding.md R84, 60_exceptions.md R233): a fault in IDLE and DONE, ignored in BUSY
and FAULT. -/
def illegalCommand (w : Half) (s : State) : Result :=
  match s.status.state with
  | .idle => .next (raiseFault fcodeIllegalCommand (w.setWidth 64) s)
  | .done => .next (raiseFault fcodeIllegalCommand (w.setWidth 64) s)
  | .busy => .next s
  | .fault => .next s

end Sys2Proof.Machine
end

