-- ==== Sys2Proof/Machine/Commands.lean ====
section
/-! DEFINITION. The four host commands (46_commands.md R210 to R214). A hash command's meaning is its acceptance (Table
ACCEPT of R214, first row of Table PHASE of R216); Machine/Sequencer.lean then takes it, one transition of Table PHASE a
step, to DONE or FAULT. -/

namespace Sys2Proof.Machine

/-- NOP (R213): no state changes, in any state (R214). -/
def execNop (s : State) : Result := .next s

/-- A hash command is accepted in IDLE and DONE and ignored in BUSY and FAULT (R214). -/
def issueHash (cmd : HashCommand) (s : State) : Result :=
  match s.status.state with
  | .idle => .next (accept cmd s)
  | .done => .next (accept cmd s)
  | .busy => .next s
  | .fault => .next s

/-- HASH64 (R210). -/
def execHash64 (s : State) : Result := issueHash .hash64 s

/-- HASH64S (R211). -/
def execHash64s (s : State) : Result := issueHash .hash64s s

/-- CLEAR (R212): accepted in IDLE, DONE and FAULT, ignored in BUSY (R214). -/
def execClear (s : State) : Result :=
  match s.status.state with
  | .idle => .next (acknowledge s)
  | .done => .next (acknowledge s)
  | .fault => .next (acknowledge s)
  | .busy => .next s

end Sys2Proof.Machine
end

