-- ==== Sys2Proof/Machine/Microops.lean ====
section
/-! DEFINITION. The internal operations of format UOP (30_encoding.md R87) that are no loop: DERIVE, DISPATCH, MIX16,
INITACC, ACCUMULATE, SCRAMBLE, and the finishers. A function's value goes to `out` (00_scope.md R13, log 12). -/

namespace Sys2Proof.Machine

/-- DERIVE (41_deriver.md R120): `ESEC` from `KSEC` and the seed. -/
def execDerive (seed : Word) (s : State) : Result := .next { s with esec := deriveSecret ksecBytes seed }

/-- Where DISPATCH sends a command (Table PHASE of 46_commands.md R216). -/
def routePhase : LenClass → Phase
  | .len0 | .len1_3 | .len4_8 | .len9_16 => .short
  | .len17_128 | .len129_240 => .mid
  | .long => .longBlock

/-- DISPATCH (42_dispatch_short.md R130): the strategy to run and the class `LCLASS` will show. -/
def execDispatch (n : Word) (s : State) : Result :=
  .next { s with nextClass := (lengthClass n).code, phase := routePhase (lengthClass n) }

/-- MIX16 (40_primitives.md R108). -/
def execMix16 (io : Word) (S : SecretOperand) (so : Nat) (seed : Word) (s : State) : Result :=
  andThen (readInput io.toNat 16 s) fun s =>
  andThen (readSecret S so 16 s) fun s =>
  .next (setOut (mix16 s.inputBytes io.toNat (s.secretBytes S) so seed) s)

/-- INITACC (44_stripe_engine.md R170). -/
def execInitacc (s : State) : Result := .next (setAcc initAcc s)

/-- ACCUMULATE (R171). -/
def execAccumulate (io : Word) (S : SecretOperand) (so : Nat) (s : State) : Result :=
  andThen (readInput io.toNat Config.engine.stripeLen s) fun s =>
  andThen (readSecret S so Config.engine.stripeLen s) fun s =>
  .next (setAcc (accumulate s.inputBytes io.toNat (s.secretBytes S) so s.acc) s)

/-- SCRAMBLE (R172), `Z` the size of the secret operand. -/
def execScramble (S : SecretOperand) (s : State) : Result :=
  andThen (readSecret S (S.size - Config.engine.stripeLen) Config.engine.stripeLen s) fun s =>
  .next (setAcc (scramble (s.secretBytes S) S.size s.acc) s)

/-- AVALANCHE (45_finishers.md R200). -/
def execAvalanche (h : Word) (s : State) : Result := .next (setOut (avalanche h) s)

/-- AVALANCHE64 (R201). -/
def execAvalanche64 (h : Word) (s : State) : Result := .next (setOut (avalanche64 h) s)

/-- RRMXMX (R202). -/
def execRrmxmx (h len : Word) (s : State) : Result := .next (setOut (rrmxmx h len) s)

end Sys2Proof.Machine
end

