-- ==== Sys2Proof/Machine/ExecStrategies.lean ====
section
/-! DEFINITION. The strategies as whole operations: LEN0 to LEN129_240 (42_dispatch_short.md R131 to R134,
43_dispatch_mid.md R150, R151), STRIPELOOP, MERGE and LONG (44_stripe_engine.md R173 to R175). Each makes its reads
within their bounds, computes its pure function and leaves the value in `out`. The sequencer runs the same strategies in
the smaller transitions of Table PHASE (46_commands.md R216). -/

namespace Sys2Proof.Machine

/-- The reads a strategy of class `c` makes (R55, R65). -/
def strategyReads (c : LenClass) (n : Word) (S : SecretOperand) (s : State) : Result :=
  andThen (requireClass c n s) fun s =>
  andThen (readInputs (inputReads n.toNat c) s) fun s =>
  readSecrets S (secretReads n.toNat c) s

/-- LEN0 (R131). -/
def execLen0 (S : SecretOperand) (seed : Word) (s : State) : Result :=
  andThen (strategyReads .len0 0 S s) fun s =>
  .next (setOut (hashLen0 (s.secretBytes S) seed) s)

/-- LEN1_3 (R132). -/
def execLen1_3 (n : Word) (S : SecretOperand) (seed : Word) (s : State) : Result :=
  andThen (strategyReads .len1_3 n S s) fun s =>
  .next (setOut (hashLen1_3 s.inputBytes n (s.secretBytes S) seed) s)

/-- LEN4_8 (R133). -/
def execLen4_8 (n : Word) (S : SecretOperand) (seed : Word) (s : State) : Result :=
  andThen (strategyReads .len4_8 n S s) fun s =>
  .next (setOut (hashLen4_8 s.inputBytes n (s.secretBytes S) seed) s)

/-- LEN9_16 (R134). -/
def execLen9_16 (n : Word) (S : SecretOperand) (seed : Word) (s : State) : Result :=
  andThen (strategyReads .len9_16 n S s) fun s =>
  .next (setOut (hashLen9_16 s.inputBytes n (s.secretBytes S) seed) s)

/-- LEN17_128 (R150); `RND` has counted its rounds. -/
def execLen17_128 (n : Word) (S : SecretOperand) (seed : Word) (s : State) : Result :=
  andThen (strategyReads .len17_128 n S s) fun s =>
  .next (setOut (hashLen17_128 s.inputBytes n (s.secretBytes S) seed)
    (setHacc (sumLen17_128 s.inputBytes n (s.secretBytes S) seed) (setRnd (BitVec.ofNat 4 (roundsLen17_128 n.toNat)) s)))

/-- LEN129_240 (R151); `RND` has counted its rounds in its 4 bits (log 9). -/
def execLen129_240 (n : Word) (S : SecretOperand) (seed : Word) (s : State) : Result :=
  andThen (strategyReads .len129_240 n S s) fun s =>
  .next (setOut (hashLen129_240 s.inputBytes n (s.secretBytes S) seed)
    (setHacc (sumLen129_240 s.inputBytes n (s.secretBytes S) seed) (setRnd (BitVec.ofNat 4 (roundsLen129_240 n.toNat)) s)))

/-- STRIPELOOP (R173); `BLK` and `STR` have counted its blocks and the stripes of its last, partial block. -/
def execStripeloop (n : Word) (S : SecretOperand) (s : State) : Result :=
  andThen (requireClass .long n s) fun s =>
  andThen (readInputs (inputReads n.toNat .long) s) fun s =>
  andThen (readSecrets S (stripeSecretReads n.toNat S.size) s) fun s =>
  .next (setAcc (stripeLoop s.inputBytes n.toNat (s.secretBytes S) S.size s.acc)
    (setBlock (BitVec.ofNat 64 (fullBlocks n.toNat S.size)) (BitVec.ofNat 5 (tailStripes n.toNat S.size)) s))

/-- MERGE (R174). -/
def execMerge (n : Word) (S : SecretOperand) (s : State) : Result :=
  andThen (readSecret S 11 64 s) fun s =>
  .next (setOut (mergeAcc n (s.secretBytes S) s.acc) (setHacc (mergeSum n (s.secretBytes S) s.acc) s))

/-- LONG (R175): INITACC, STRIPELOOP, MERGE. -/
def execLong (n : Word) (S : SecretOperand) (s : State) : Result :=
  andThen (execInitacc s) fun s =>
  andThen (execStripeloop n S s) fun s =>
  execMerge n S s

end Sys2Proof.Machine
end

