-- ==== Sys2Proof/Machine/Dispatch.lean ====
section
/-! DEFINITION. The meaning of every instruction, one arm a constructor. -/

namespace Sys2Proof.Machine

def exec (i : Instr) (s : State) : Host.Outcome State Fault Refusal :=
  match i with
  | .nop => Sys2Proof.Machine.execNop s
  | .hash64 => Sys2Proof.Machine.execHash64 s
  | .hash64s => Sys2Proof.Machine.execHash64s s
  | .clear => Sys2Proof.Machine.execClear s
  | .len0 S seed => Sys2Proof.Machine.execLen0 S seed s
  | .len1_3 n S seed => Sys2Proof.Machine.execLen1_3 n S seed s
  | .len4_8 n S seed => Sys2Proof.Machine.execLen4_8 n S seed s
  | .len9_16 n S seed => Sys2Proof.Machine.execLen9_16 n S seed s
  | .len17_128 n S seed => Sys2Proof.Machine.execLen17_128 n S seed s
  | .len129_240 n S seed => Sys2Proof.Machine.execLen129_240 n S seed s
  | .long n S => Sys2Proof.Machine.execLong n S s
  | .derive seed => Sys2Proof.Machine.execDerive seed s
  | .dispatch n => Sys2Proof.Machine.execDispatch n s
  | .mix16 io S so seed => Sys2Proof.Machine.execMix16 io S so seed s
  | .initacc => Sys2Proof.Machine.execInitacc s
  | .accumulate io S so => Sys2Proof.Machine.execAccumulate io S so s
  | .scramble S => Sys2Proof.Machine.execScramble S s
  | .stripeloop n S => Sys2Proof.Machine.execStripeloop n S s
  | .merge n S => Sys2Proof.Machine.execMerge n S s
  | .avalanche h => Sys2Proof.Machine.execAvalanche h s
  | .avalanche64 h => Sys2Proof.Machine.execAvalanche64 h s
  | .rrmxmx h len => Sys2Proof.Machine.execRrmxmx h len s

end Sys2Proof.Machine
end

