-- ==== Sys2Proof/Machine/Sequencer.lean ====
section
/-! DEFINITION. The sequencer: Table PHASE (46_commands.md R216), one transition a step. Each transition issues the
internal operations the table names, as instructions, with the operands of the command in flight (41_deriver.md
R121). -/

namespace Sys2Proof.Machine

/-- P_CHECK (60_exceptions.md R231, R232, R234, R235): InvalidSecret before OutOfBounds, both before any read. A byte of
`CSEC[0 .. SECLEN - 1]` that holds no value makes `RESULT` unspecified (R211 (e), U3). DEDUCED log 15. -/
def checkPhase (s : State) : Result :=
  match s.latch.cmd with
  | .hash64 =>
    if s.latch.bufsz < s.latch.len then .next (raiseFault fcodeOutOfBounds s.latch.len s)
    else .next (goto .derive s)
  | .hash64s =>
    if s.latch.seclen.toNat < Config.engine.secretMin ∨ Config.engine.csecCapacity < s.latch.seclen.toNat then
      .next (raiseFault fcodeInvalidSecret (s.latch.seclen.setWidth 64) s)
    else if s.latch.bufsz < s.latch.len then .next (raiseFault fcodeOutOfBounds s.latch.len s)
    else
      .next (goto .dispatch (mark (!Mem.known s.csec 0 s.latch.seclen.toNat) s))

/-- P_DERIVE: DERIVE. -/
def derivePhase (s : State) : Result :=
  andThen (exec (.derive s.latch.seed) s) fun s => .next (goto .dispatch s)

/-- The start of the two mid strategies (R150, R151). -/
def startRounds (s : State) : State :=
  { s with hacc := s.latch.len * Config.engine.prime64_1, rnd := 0, roundsDone := false }

/-- P_DISPATCH: DISPATCH, and the start of the strategy it routes to. -/
def dispatchPhase (s : State) : Result :=
  andThen (exec (.dispatch s.latch.len) s) fun s =>
  match lengthClass s.latch.len with
  | .len0 | .len1_3 | .len4_8 | .len9_16 => .next s
  | .len17_128 | .len129_240 => .next (startRounds s)
  | .long => andThen (exec .initacc s) fun s => .next (setBlock 0 0 s)

/-- The keyed value of a short strategy, up to but not including its finisher (R131 to R134). -/
def keyedValue (c : LenClass) (inp : Bytes) (n : Word) (S : Bytes) (seed : Word) (old : Word) : Word :=
  match c with
  | .len0 => keyedLen0 S seed
  | .len1_3 => keyedLen1_3 inp n S seed
  | .len4_8 => keyedLen4_8 inp n S seed
  | .len9_16 => keyedLen9_16 inp n S seed
  | .len17_128 | .len129_240 | .long => old

/-- P_SHORT: the keyed value. -/
def shortPhase (s : State) : Result :=
  andThen (strategyReads (lengthClass s.latch.len) s.latch.len s.secretOperand s) fun s =>
  .next (goto .finish (setOut
    (keyedValue (lengthClass s.latch.len) s.inputBytes s.latch.len (s.secretBytes s.secretOperand) s.seedOperand s.out)
    s))

/-- One MIX16 with its value added to `HACC` (R150, R151). -/
def mixInto (io so : Nat) (s : State) : Result :=
  andThen (exec (.mix16 (BitVec.ofNat 64 io) s.secretOperand so s.seedOperand) s) fun s =>
  .next (setHacc (s.hacc + s.out) s)

/-- Rounds of the two mid strategies (R150, R151): 1 to 4, or 9 to 16. -/
def midRounds (n : Word) : Nat :=
  if n.toNat ≤ Config.engine.len17_128Max then roundsLen17_128 n.toNat else roundsLen129_240 n.toNat

/-- `RND <- RND + 1` (46_commands.md R216) in its 4 bits (10_state.md R26), and whether that was the last round.
DEDUCED log 9. -/
def countRound (s : State) : State :=
  { s with rnd := s.rnd + 1, roundsDone := decide (s.rnd.toNat + 1 = midRounds s.latch.len) }

/-- Round `RND` of LEN17_128 (R150): the front and the back chunk. DEDUCED log 10. -/
def roundLen17_128 (s : State) : Result :=
  andThen (mixInto (16 * s.rnd.toNat) (32 * s.rnd.toNat) s) fun s =>
  andThen (mixInto (s.latch.len.toNat - 16 * (s.rnd.toNat + 1)) (32 * s.rnd.toNat + 16) s) fun s =>
  .next (countRound s)

/-- Round `RND` of LEN129_240 (R151), with the mid-way AVALANCHE after round 7; the round after the chunks is the last
one, at the end of the input. DEDUCED log 10. -/
def roundLen129_240 (s : State) : Result :=
  if s.rnd.toNat < 7 then andThen (mixInto (16 * s.rnd.toNat) (16 * s.rnd.toNat) s) fun s => .next (countRound s)
  else if s.rnd.toNat = 7 then
    andThen (mixInto (16 * s.rnd.toNat) (16 * s.rnd.toNat) s) fun s =>
    andThen (exec (.avalanche s.hacc) s) fun s =>
    .next (countRound (setHacc s.out s))
  else if s.rnd.toNat < s.latch.len.toNat / 16 then
    andThen (mixInto (16 * s.rnd.toNat) (16 * (s.rnd.toNat - 8) + 3) s) fun s => .next (countRound s)
  else andThen (mixInto (s.latch.len.toNat - 16) 119 s) fun s => .next (countRound s)

/-- P_MID: a round while rounds remain, then P_FINISH. -/
def midPhase (s : State) : Result :=
  if s.roundsDone then .next (goto .finish s)
  else
    match lengthClass s.latch.len with
    | .len17_128 => roundLen17_128 s
    | .len129_240 => roundLen129_240 s
    | .len0 | .len1_3 | .len4_8 | .len9_16 | .long => .next (goto .finish s)

/-- Stripe `STR` of block `b` (R173). -/
def stripeOf (b : Nat) (s : State) : Result :=
  andThen
    (exec (.accumulate (BitVec.ofNat 64 (b * blockLen s.secretOperand.size + Config.engine.stripeLen * s.str.toNat))
      s.secretOperand (8 * s.str.toNat)) s)
    fun s => .next (setBlock s.blk (s.str + 1) s)

/-- P_LONG_BLOCK: the stripes of a full block, its SCRAMBLE, and on to the tail when no full block is left. -/
def longBlockPhase (s : State) : Result :=
  if s.blk.toNat < fullBlocks s.latch.len.toNat s.secretOperand.size then
    if s.str.toNat < stripesPerBlock s.secretOperand.size then stripeOf s.blk.toNat s
    else
      andThen (exec (.scramble s.secretOperand) s) fun s => .next (setBlock (s.blk + 1) 0 s)
  else .next (goto .longTail s)

/-- P_LONG_TAIL: the full stripes of the last, partial block. -/
def longTailPhase (s : State) : Result :=
  if s.str.toNat < tailStripes s.latch.len.toNat s.secretOperand.size then
    stripeOf (fullBlocks s.latch.len.toNat s.secretOperand.size) s
  else .next (goto .longLast s)

/-- P_LONG_LAST: the last stripe, always. -/
def longLastPhase (s : State) : Result :=
  andThen (exec (.accumulate (s.latch.len - BitVec.ofNat 64 Config.engine.stripeLen) s.secretOperand
    (s.secretOperand.size - Config.engine.stripeLen - 7)) s) fun s =>
  .next (goto .merge s)

/-- P_MERGE: the sum of MERGE, up to but not including its finisher (R174). -/
def mergePhase (s : State) : Result :=
  andThen (readSecret s.secretOperand 11 64 s) fun s =>
  .next (goto .finish (setHacc (mergeSum s.latch.len (s.secretBytes s.secretOperand) s.acc) s))

/-- The finisher of the class with its operand (42_dispatch_short.md R136): the keyed value of a short strategy stands
in `out`, the sum of the others in `HACC`. -/
def finisherInstr (s : State) : Instr :=
  match lengthClass s.latch.len with
  | .len0 | .len1_3 => .avalanche64 s.out
  | .len4_8 => .rrmxmx s.out s.latch.len
  | .len9_16 => .avalanche s.out
  | .len17_128 | .len129_240 | .long => .avalanche s.hacc

/-- P_FINISH: the finisher, then completion. -/
def finishPhase (s : State) : Result := andThen (exec (finisherInstr s) s) fun s => .next (complete s)

/-- One move of the engine. In IDLE, DONE and FAULT nothing changes except by the host (60_exceptions.md R246). -/
def engineMove (s : State) : Result :=
  match s.phase with
  | .idle => .next s
  | .done => .next s
  | .fault => .next s
  | .check => checkPhase s
  | .derive => derivePhase s
  | .dispatch => dispatchPhase s
  | .short => shortPhase s
  | .mid => midPhase s
  | .longBlock => longBlockPhase s
  | .longTail => longTailPhase s
  | .longLast => longLastPhase s
  | .merge => mergePhase s
  | .finish => finishPhase s

end Sys2Proof.Machine
end

