-- ==== Sys2Proof/Machine/HostPort.lean ====
section
/-! DEFINITION. The host's side: accesses to `REG` (20_memory.md R58, 10_state.md R21 to R25), stores to `IN` and
reads of it (20_memory.md R51, R57; 10_state.md R20), the poll of WAIT (30_encoding.md R88) and reset
(70_reset_and_hazards.md R260). -/

namespace Sys2Proof.Machine

/-- A write of the word `w` to `CMD` (R23, 46_commands.md R214): a command by its decode, or an illegal word. -/
def issueCommand (w : Half) (s : State) : Result :=
  match decodeWord w with
  | .ok i => exec i s
  | .error _ => illegalCommand w s

/-- A write that the engine ignores in BUSY and honours otherwise (R25). -/
def unlessBusy (s t : State) : Result :=
  match s.status.state with
  | .busy => .next s
  | .idle | .done | .fault => .next t

/-- Where R58 specifies no access: outside the window there is no register, inside it the access is refused (U5 of
70_reset_and_hazards.md R263). -/
def noAccess (off : Nat) (w : Width) : Result :=
  if 0x200 ≤ off then .fault (.outsideWindow off) else .refused (.unspecifiedAccess off w)

/-- A host write of `v` to `REG` (R21 to R25, R58). -/
def hostWrite (off : Nat) (w : Width) (v : Word) (s : State) : Result :=
  match regTarget off w with
  | some .cmd => issueCommand (lowHalf v) s
  | some .seed => unlessBusy s { s with seed := v }
  | some .len => unlessBusy s { s with len := v }
  | some .bufsz => unlessBusy s { s with bufsz := v }
  | some .seclen => unlessBusy s { s with seclen := lowHalf v }
  | some (.csec k) => unlessBusy s { s with csec := Mem.writeBytes s.csec k v w.bytes }
  | some .status => .next s
  | some .result => .next s
  | some .faultinfo => .next s
  | some .reserved => .next s
  | none => noAccess off w

/-- Little-endian value of `k` bytes of `CSEC` from offset `off` on (R52, R58); a byte that holds no value is a free
one. -/
def csecValue (s : State) (off : Nat) : Nat → Word
  | 0 => 0
  | k + 1 => csecValue s off k ||| (((s.secretBytes (.csec Config.engine.csecCapacity)) (off + k)).setWidth 64 <<< (8 * k))

/-- The value a host read returns and whether it is a free value, drawn afresh (U1; log 5). -/
def readValue (t : RegTarget) (w : Width) (s : State) : Word × Bool :=
  match t with
  | .cmd => (0, false)
  | .status => (s.status.word.setWidth 64, false)
  | .seed => (s.seed, false)
  | .len => (s.len, false)
  | .bufsz => (s.bufsz, false)
  | .seclen => (s.seclen.setWidth 64, false)
  | .result => if s.status.state = .done then (s.result, false) else (Config.freeWord s.draws, true)
  | .faultinfo => if s.status.state = .fault then (s.faultinfo, false) else (Config.freeWord s.draws, true)
  | .csec k => (csecValue s k w.bytes, !Mem.known s.csec k w.bytes)
  | .reserved => (0, false)

/-- A host read of `REG`: it has no side effect on the engine (R25); what it returned is recorded. -/
def hostRead (off : Nat) (w : Width) (s : State) : Result :=
  match regTarget off w with
  | some t =>
    .next { s with
      reads := .reg off w (readValue t w s).1 :: s.reads
      draws := if (readValue t w s).2 then s.draws + 1 else s.draws }
  | none => noAccess off w

/-- A host store of one byte of `IN`. Into `IN[0 .. LEN - 1]` of a command in flight it makes `RESULT` unspecified
(R57, U4). Log 6. -/
def hostStore (off : Word) (b : Byte) (s : State) : State :=
  { s with
    input := Mem.write s.input off.toNat b
    tainted := s.tainted || (decide (s.status.state = .busy) && decide (off.toNat < s.latch.len.toNat)) }

/-- A host read of one byte of `IN` (10_state.md R20): it changes nothing but the record of reads. A byte the host never
wrote holds no value (R51): a free one, drawn afresh. Log 5. -/
def hostLoad (off : Word) (s : State) : State :=
  { s with
    reads := .input off (s.inputBytes off.toNat) :: s.reads
    draws := if Mem.known s.input off.toNat 1 then s.draws else s.draws + 1 }

/-- WAIT (R88): while `STATUS` is BUSY the engine moves and the host polls again; how many polls return BUSY is
unspecified (U7) and none of them is recorded. The poll that does not return BUSY is. Log 8. -/
def hostWait (rest : List HostMove) (s : State) : Result :=
  match s.status.state with
  | .busy => engineMove { s with inbox := .wait :: rest }
  | .idle | .done | .fault => hostRead 0x008 .b4 { s with inbox := rest }

/-- The move at the head of the queue, `rest` still to come; with an empty queue the engine moves. -/
def turn (s : State) : Result :=
  match s.inbox with
  | [] => engineMove s
  | .pass :: rest => engineMove { s with inbox := rest }
  | .write off w v :: rest => hostWrite off w v { s with inbox := rest }
  | .read off w :: rest => hostRead off w { s with inbox := rest }
  | .store off b :: rest => .next (hostStore off b { s with inbox := rest })
  | .load off :: rest => .next (hostLoad off { s with inbox := rest })
  | .wait :: rest => hostWait rest s
  | .reset :: rest => .next (resetEngine { s with inbox := rest })

/-- The move that writes a table row's word to `CMD`, the bits above `nbits` zero (30_encoding.md R80). -/
def commandMove (nbits w : Nat) : HostMove := .write 0x000 .b4 (BitVec.ofNat 64 (w % 2 ^ (min nbits 32)))

/-- The host script `HASH seed, n` (R88). -/
def hashScript (seed n : Word) : List HostMove :=
  [.write 0x010 .b8 seed, .write 0x018 .b8 n, .write 0x020 .b8 n, .write 0x000 .b4 1, .wait, .read 0x030 .b8]

/-- The host script `HASHS n, z` (R88). -/
def hashsScript (n : Word) (z : Half) : List HostMove :=
  [.write 0x018 .b8 n, .write 0x020 .b8 n, .write 0x028 .b4 (z.setWidth 64), .write 0x000 .b4 2, .wait,
    .read 0x030 .b8]

/-- The host script `ACK` (R88). -/
def ackScript : List HostMove := [.write 0x000 .b4 3]

end Sys2Proof.Machine
end

