-- ==== Sys2Proof/Machine/Step.lean ====
section
/-! DEFINITION. One step of the machine: the agent whose turn it is moves. -/

namespace Sys2Proof.Machine

/-- One step: a host move of the queue, or a transition of the sequencer (10_state.md R20, 46_commands.md R216). -/
def step (s : State) : Host.Outcome State Fault Refusal := turn s

/-- The state whose next step is the host's write of a table row's word to `CMD`: the engine fetches no instruction
(10_state.md R26), a command comes to run by that write (46_commands.md R214). Log 17. -/
def State.withFetchWord (s : State) (nbits w : Nat) : State := { s with inbox := commandMove nbits w :: s.inbox }

end Sys2Proof.Machine
end

