-- ==== Sys2Proof/Safety.lean ====
section
/-! DEFINITION. What counts as a well-formed state, a state that accepts commands, and operands that can be read: the
terms in which the claims are stated. -/

namespace Sys2Proof.Machine

/-- IDLE and DONE accept commands (46_commands.md R214). -/
abbrev State.ready (s : State) : Prop := s.status.state = .idle ∨ s.status.state = .done

/-- The phases after the checks have passed (R216). -/
def Phase.checked : Phase → Bool
  | .derive | .dispatch | .short | .mid | .longBlock | .longTail | .longLast | .merge | .finish => true
  | .idle | .check | .done | .fault => false

/-- The phases after DISPATCH (R216). -/
def Phase.dispatched : Phase → Bool
  | .short | .mid | .longBlock | .longTail | .longLast | .merge | .finish => true
  | .idle | .check | .derive | .dispatch | .done | .fault => false

/-- In each phase the length lies in the classes that reach it and the counters stay within their loops (R216, R173,
10_state.md R26). -/
def State.progress (s : State) : Prop :=
  match s.phase with
  | .idle | .check | .done | .fault | .finish => True
  | .derive => s.latch.cmd = .hash64
  | .dispatch => True
  | .short => s.latch.len.toNat ≤ 16
  | .mid => 17 ≤ s.latch.len.toNat ∧ s.latch.len.toNat ≤ 240 ∧
      if s.roundsDone then s.rnd = BitVec.ofNat 4 (midRounds s.latch.len) else s.rnd.toNat < midRounds s.latch.len
  | .longBlock =>
    241 ≤ s.latch.len.toNat ∧ s.blk.toNat ≤ fullBlocks s.latch.len.toNat s.secretOperand.size ∧
      s.str.toNat ≤ stripesPerBlock s.secretOperand.size ∧
      (s.blk.toNat = fullBlocks s.latch.len.toNat s.secretOperand.size → s.str = 0)
  | .longTail => 241 ≤ s.latch.len.toNat ∧ s.str.toNat ≤ tailStripes s.latch.len.toNat s.secretOperand.size
  | .longLast => 241 ≤ s.latch.len.toNat
  | .merge => 241 ≤ s.latch.len.toNat

/-- The invariant of the machine. -/
structure State.Inv (s : State) : Prop where
  /-- `STATE` is the state of `PHASE` (R216). -/
  state_of_phase : s.status.state = s.phase.state
  /-- `FCODE ≠ 0` if and only if `STATE` = FAULT (10_state.md R24). -/
  fcode_fault : s.status.fcode ≠ fcodeNone ↔ s.status.state = .fault
  /-- Fault codes 4 to 15 are never produced (60_exceptions.md R230). -/
  fcode_range : s.status.fcode.toNat ≤ 3
  /-- `LCLASS` = 7 exactly when `STATE` ≠ DONE (R24, V4 of 93_implementation_defined.md). -/
  lclass_done : s.status.lclass = lclassNone ↔ s.status.state ≠ .done
  /-- `IN` keeps its canonical form. -/
  input_wf : Mem.wf s.input
  /-- `CSEC` keeps its canonical form. -/
  csec_wf : Mem.wf s.csec
  /-- `CSEC` has 192 bytes (R30). -/
  csec_range : ∀ c ∈ s.csec, c.1 < 192
  /-- No operand register changes under a command in flight (R25). -/
  latched : s.status.state = .busy →
    s.latch.seed = s.seed ∧ s.latch.len = s.len ∧ s.latch.bufsz = s.bufsz ∧ s.latch.seclen = s.seclen
  /-- After P_CHECK both preconditions hold (60_exceptions.md R235). -/
  checks_passed : s.phase.checked = true →
    s.latch.len.toNat ≤ s.latch.bufsz.toNat ∧
      (s.latch.cmd = .hash64s → 136 ≤ s.latch.seclen.toNat ∧ s.latch.seclen.toNat ≤ 192)
  /-- After P_DERIVE, under HASH64, `ESEC` is the effective secret of the seed (R31, 41_deriver.md R120). -/
  derived : s.phase.checked = true → s.phase ≠ .derive → s.latch.cmd = .hash64 →
    s.esec = deriveSecret ksecBytes s.latch.seed
  /-- After DISPATCH the class to be shown is that of the length (42_dispatch_short.md R130). -/
  class_selected : s.phase.dispatched = true → s.nextClass = (lengthClass s.latch.len).code
  /-- The sequencer is where its length and its loops allow. -/
  progress : s.progress

/-- An internal operation with length `n` and secret `S` can be run by the command in flight and reads only bytes that
hold a value (20_memory.md R55, R65). -/
structure State.Readable (s : State) (n : Nat) (S : SecretOperand) : Prop where
  within : n ≤ s.latch.len.toNat
  input_known : Mem.known s.input 0 n = true
  secret_wf : S.wf = true
  secret_known : s.secretKnown S 0 S.size = true

/-- `t` holds the operands of `s`: the four operand registers and every byte of `CSEC` and of `IN` (10_state.md
R21, R30; 20_memory.md R51). -/
structure SameOperands (s t : State) : Prop where
  seed : t.seed = s.seed
  len : t.len = s.len
  bufsz : t.bufsz = s.bufsz
  seclen : t.seclen = s.seclen
  csec : ∀ a, Mem.read? t.csec a = Mem.read? s.csec a
  input : ∀ a, Mem.read? t.input a = Mem.read? s.input a

/-- `t` has the scratch of `s`: `BLK`, `STR`, `RND`, `ACC`, `HACC`, `ESEC`, and the model's bit of `RND`, value wire and class
(R26 to R31). -/
structure SameScratch (s t : State) : Prop where
  blk : t.blk = s.blk
  str : t.str = s.str
  rnd : t.rnd = s.rnd
  roundsDone : t.roundsDone = s.roundsDone
  acc : t.acc = s.acc
  hacc : t.hacc = s.hacc
  esec : t.esec = s.esec
  out : t.out = s.out
  nextClass : t.nextClass = s.nextClass

/-- The host's queue, what it has read and the count of free values are those of `s`. -/
structure SameHost (s t : State) : Prop where
  inbox : t.inbox = s.inbox
  reads : t.reads = s.reads
  draws : t.draws = s.draws

/-- How many transitions of the sequencer a command of length `n` needs at most (70_reset_and_hazards.md R267). -/
def transitionBound (n : Nat) : Nat := n / 64 + n / 576 + 40

end Sys2Proof.Machine
end

