-- ==== Sys2Proof/Certificates/Slice0/Obligations.lean ====
section
/-! DEFINITION. The statements about this model. Each docstring names the rule of spec/ it rests on. -/

open Sys2Proof Sys2Proof.Machine

/-! ### Decoding -/

/-- 30_encoding.md R81, R84, R89: the four command words, by mask and match over the whole word, and every other word
illegal. -/
def Obligations.CommandWordsDecode : Prop :=
  ∀ w : Half,
    (decodeWord w = .ok .nop ↔ w &&& 0xFFFFFFFF#32 = 0x00000000#32) ∧
    (decodeWord w = .ok .hash64 ↔ w &&& 0xFFFFFFFF#32 = 0x00000001#32) ∧
    (decodeWord w = .ok .hash64s ↔ w &&& 0xFFFFFFFF#32 = 0x00000002#32) ∧
    (decodeWord w = .ok .clear ↔ w &&& 0xFFFFFFFF#32 = 0x00000003#32) ∧
    (decodeWord w = .error (.illegalCommand w) ↔ w.extractLsb' 8 24 ≠ 0 ∨ 3 < (w.extractLsb' 0 8).toNat)

/-- 30_encoding.md R80, R81: decode and encode agree on byte sequences, both ways: the bytes of a command decode to it
and leave the rest alone, and whatever decodes is the bytes of a command. -/
def Obligations.DecodeAndEncodeAgree : Prop :=
  ∀ (i : Instr) (bs rest : List Byte),
    decode bs = .ok (i, rest) ↔ ∃ e, encode i = some e ∧ bs = e ++ rest

/-- 30_encoding.md R83, 42_dispatch_short.md R130: the length-class decode selects the one row whose range holds the
length. -/
def Obligations.LengthClassSelectsTheOneRow : Prop :=
  ∀ (n : Word) (c : LenClass), lengthClass n = c ↔ c.lenMin ≤ n.toNat ∧ n.toNat ≤ c.lenMax

/-- 46_commands.md R214, 30_encoding.md R89: when the host's next move writes a word to `CMD` that decodes to an
instruction, the step is that instruction's meaning with the move taken from the queue; and the state the host's
interface builds for a table word makes that move next. -/
def Obligations.StepRunsDecodedCommand : Prop :=
  (∀ (s : State) (v : Word) (rest : List HostMove) (i : Instr),
    s.inbox = .write 0x000 .b4 v :: rest → decodeWord (lowHalf v) = .ok i →
      step s = exec i { s with inbox := rest }) ∧
  (∀ (s : State) (w : Nat) (i : Instr), decodeTableWord 32 w = some i → step (s.withFetchWord 32 w) = exec i s)

/-- Log 8 (DESIGN CHOICE): with no host move queued, or a turn left to it, the engine makes one transition of Table
PHASE. -/
def Obligations.StepRunsEngineWhenHostIsSilent : Prop :=
  ∀ (s : State) (rest : List HostMove),
    (s.inbox = [] → step s = engineMove s) ∧
    (s.inbox = .pass :: rest → step s = engineMove { s with inbox := rest })

/-! ### The host commands -/

/-- 46_commands.md R213. -/
def Obligations.NopDoesNothing : Prop :=
  decodeWord 0x00000000#32 = .ok .nop ∧ ∀ s : State, exec .nop s = .next s

/-- 46_commands.md R212: CLEAR leads from IDLE, DONE and FAULT to IDLE and changes nothing else; in IDLE it has no
effect; after it `RESULT` and `FAULTINFO` read as free values; in BUSY it is ignored. That the fields of the scratch
keep their content, which U6 leaves open, is the model's choice (log 24, DESIGN CHOICE); so it is of `RESULT` and
`FAULTINFO`, and that each read of them is a fresh free value (log 5, DESIGN CHOICE). -/
def Obligations.ClearReturnsToIdle : Prop :=
  ∀ s : State,
    (s.status.state ≠ .busy →
      exec .clear s = .next { s with status := { state := .idle, fcode := 0, lclass := 7 }, phase := .idle }) ∧
    (s.status.state = .busy → exec .clear s = .next s) ∧
    (s.Inv → s.status.state = .idle → exec .clear s = .next s) ∧
    (∀ t, s.status.state ≠ .busy → exec .clear s = .next t →
      readValue .result .b8 t = (Config.freeWord t.draws, true) ∧
      readValue .faultinfo .b8 t = (Config.freeWord t.draws, true))

/-- 46_commands.md R210, R214, R216: HASH64 is accepted in IDLE and DONE: the operands are latched, `STATUS` becomes
BUSY with no fault and no class, the sequencer is at P_CHECK, and nothing else changes; in BUSY and FAULT it is
ignored. Where it then goes is stated by `Hash64Completes` and `Hash64FaultsOutOfBounds`. That the fields of the
scratch, and `RESULT` and `FAULTINFO`, keep their content at acceptance is the model's choice (log 24 and log 5, DESIGN
CHOICE). -/
def Obligations.Hash64Accepted : Prop :=
  ∀ s : State,
    (s.ready → exec .hash64 s = .next { s with
      latch := { cmd := .hash64, seed := s.seed, len := s.len, bufsz := s.bufsz, seclen := s.seclen }
      status := { state := .busy, fcode := 0, lclass := 7 }
      phase := .check
      tainted := false }) ∧
    (¬ s.ready → exec .hash64 s = .next s)

/-- 46_commands.md R211, R214, R216: the same of HASH64S, with the same choice of the model (log 24, log 5). -/
def Obligations.Hash64sAccepted : Prop :=
  ∀ s : State,
    (s.ready → exec .hash64s s = .next { s with
      latch := { cmd := .hash64s, seed := s.seed, len := s.len, bufsz := s.bufsz, seclen := s.seclen }
      status := { state := .busy, fcode := 0, lclass := 7 }
      phase := .check
      tainted := false }) ∧
    (¬ s.ready → exec .hash64s s = .next s)

/-- 46_commands.md R214: Table ACCEPT for every word and state, and that `STATE` changes in no other way than by the
table, the two completions and reset. -/
def Obligations.StateChangesByTableAccept : Prop :=
  (∀ (s : State) (v : Word) (rest : List HostMove), s.inbox = .write 0x000 .b4 v :: rest →
    ∃ t, step s = .next t ∧
      (s.status.state = .busy → t = { s with inbox := rest }) ∧
      (s.status.state = .fault → lowHalf v ≠ 3 → t = { s with inbox := rest }) ∧
      (s.status.state = .fault → lowHalf v = 3 → t.status.state = .idle) ∧
      (s.ready → lowHalf v = 0 → t = { s with inbox := rest }) ∧
      (s.ready → lowHalf v = 1 ∨ lowHalf v = 2 → t.status.state = .busy) ∧
      (s.ready → lowHalf v = 3 → t.status.state = .idle) ∧
      (s.ready → 3 < (lowHalf v).toNat → t.status.state = .fault ∧ t.status.fcode = 3)) ∧
  (∀ s t : State, s.Inv → step s = .next t →
    t.status.state = s.status.state ∨
    (∃ v rest, s.inbox = .write 0x000 .b4 v :: rest ∧
      (s.status.state, t.status.state) ∈
        [(EngineState.idle, EngineState.busy), (.idle, .fault), (.done, .busy), (.done, .idle), (.done, .fault),
          (.fault, .idle)]) ∨
    ((s.inbox = [] ∨ s.inbox.head? = some .pass ∨ s.inbox.head? = some .wait) ∧
      s.status.state = .busy ∧ (t.status.state = .done ∨ t.status.state = .fault)) ∨
    (s.inbox.head? = some .reset ∧ t.status.state = .idle))

/-- 60_exceptions.md R233, R236: an illegal word in IDLE or DONE faults at the write with code 3 and the word in
`FAULTINFO`. The equation also says that every other field of State stays, `RESULT` among them: R236 makes `RESULT`
unspecified there, and that the model's field keeps its content meanwhile, which no host read shows, is the model's
choice (log 5, DESIGN CHOICE); so it is of the scratch, which U6 leaves open in FAULT (log 24, DESIGN CHOICE). -/
def Obligations.IllegalWordFaults : Prop :=
  ∀ (s : State) (v : Word) (rest : List HostMove),
    s.ready → s.inbox = .write 0x000 .b4 v :: rest → 3 < (lowHalf v).toNat →
      step s = .next { s with
        inbox := rest
        faultinfo := (lowHalf v).setWidth 64
        status := { state := .fault, fcode := 3, lclass := 7 }
        phase := .fault }

/-- 60_exceptions.md R231, R235, R236: HASH64 with `LEN > BUFSZ` ends in FAULT, code 1, `FAULTINFO = LEN`, with operands,
memory and scratch as they were. Three clauses are the model's choice: that `RESULT`, which R236 makes unspecified,
keeps its content, which no host read shows (log 5, DESIGN CHOICE), that the scratch, which a faulting command does not
write (R235) and U6 leaves open, keeps its content from before the command (log 24, DESIGN CHOICE), and that the fault
comes one transition after acceptance (log 8, DESIGN CHOICE; log 21, DEDUCED). -/
def Obligations.Hash64FaultsOutOfBounds : Prop :=
  ∀ s : State, s.ready → s.inbox = [] → s.bufsz.toNat < s.len.toNat →
    ∃ t u, exec .hash64 s = .next t ∧ step t = .next u ∧
      u.status = { state := .fault, fcode := 1, lclass := 7 } ∧ u.phase = .fault ∧ u.faultinfo = s.len ∧
      u.result = s.result ∧ SameOperands s u ∧ SameScratch s u ∧ SameHost s u

/-- 60_exceptions.md R232, R234, R235, R236: HASH64S tests `SECLEN` first (code 2) and `LEN` against `BUFSZ` second
(code 1). Three clauses are the model's choice: that `RESULT`, which R236 makes unspecified, keeps its content, which no
host read shows (log 5, DESIGN CHOICE), that the scratch, which a faulting command does not write (R235) and U6 leaves
open, keeps its content from before the command (log 24, DESIGN CHOICE), and that the fault comes one transition after
acceptance (log 8, DESIGN CHOICE; log 21, DEDUCED). -/
def Obligations.Hash64sFaultsBySecretThenLength : Prop :=
  ∀ s : State, s.ready → s.inbox = [] →
    (s.seclen.toNat < 136 ∨ 192 < s.seclen.toNat →
      ∃ t u, exec .hash64s s = .next t ∧ step t = .next u ∧
        u.status = { state := .fault, fcode := 2, lclass := 7 } ∧ u.phase = .fault ∧
        u.faultinfo = s.seclen.setWidth 64 ∧
        u.result = s.result ∧ SameOperands s u ∧ SameScratch s u ∧ SameHost s u) ∧
    (136 ≤ s.seclen.toNat → s.seclen.toNat ≤ 192 → s.bufsz.toNat < s.len.toNat →
      ∃ t u, exec .hash64s s = .next t ∧ step t = .next u ∧
        u.status = { state := .fault, fcode := 1, lclass := 7 } ∧ u.phase = .fault ∧ u.faultinfo = s.len ∧
        u.result = s.result ∧ SameOperands s u ∧ SameScratch s u ∧ SameHost s u)

/-- 60_exceptions.md R237: from FAULT the only exits are CLEAR and reset; until then `FCODE` and `FAULTINFO` keep the
first fault. -/
def Obligations.OnlyClearOrResetLeavesFault : Prop :=
  ∀ s t : State, s.Inv → s.status.state = .fault → step s = .next t →
    (t.status = s.status ∧ t.faultinfo = s.faultinfo ∧ t.phase = s.phase) ∨
    (t.status.state = .idle ∧
      (s.inbox.head? = some .reset ∨ ∃ v rest, s.inbox = .write 0x000 .b4 v :: rest ∧ lowHalf v = 3))

/-- 46_commands.md R210, R215, R218 and 70_reset_and_hazards.md R267: a HASH64 whose range is in bounds and written is
accepted, and within the bound of R267 on its transitions the engine is in DONE with the hash of the first `LEN` bytes
of `IN` under `SEED` in `RESULT` and the class of `LEN` in `LCLASS`; operands and memory are as they were. That the
field `FAULTINFO`, unspecified outside FAULT, keeps its content is the model's choice (log 5, DESIGN CHOICE). -/
def Obligations.Hash64Completes : Prop :=
  ∀ s : State, s.ready → s.inbox = [] → s.len.toNat ≤ s.bufsz.toNat → Mem.known s.input 0 s.len.toNat = true →
    ∃ t k u, exec .hash64 s = .next t ∧ t.status.state = .busy ∧
      k ≤ transitionBound s.len.toNat ∧ core.run k t = .next u ∧
      u.status = { state := .done, fcode := 0, lclass := (lengthClass s.len).code } ∧ u.phase = .done ∧
      u.result = hash64 Config.engine.shortPathSecret s.inputBytes s.len s.seed ∧
      u.faultinfo = s.faultinfo ∧ SameOperands s u ∧ SameHost s u

/-- 46_commands.md R211, R215, R218 and 70_reset_and_hazards.md R267: the same of HASH64S with a written custom secret
of 136 to 192 bytes, seed 0, whatever `SEED` holds; `ESEC` is not touched. That the field `ESEC`, unspecified between
commands, and `FAULTINFO` keep their content is the model's choice (log 24 and log 5, DESIGN CHOICE). -/
def Obligations.Hash64sCompletes : Prop :=
  ∀ s : State, s.ready → s.inbox = [] → s.len.toNat ≤ s.bufsz.toNat → Mem.known s.input 0 s.len.toNat = true →
    136 ≤ s.seclen.toNat → s.seclen.toNat ≤ 192 → Mem.known s.csec 0 s.seclen.toNat = true →
    ∃ t k u, exec .hash64s s = .next t ∧ t.status.state = .busy ∧
      k ≤ transitionBound s.len.toNat ∧ core.run k t = .next u ∧
      u.status = { state := .done, fcode := 0, lclass := (lengthClass s.len).code } ∧ u.phase = .done ∧
      u.result = hash64s s.inputBytes s.len (s.secretBytes (.csec s.seclen.toNat)) s.seclen.toNat ∧
      u.faultinfo = s.faultinfo ∧ u.esec = s.esec ∧ SameOperands s u ∧ SameHost s u

/-- 70_reset_and_hazards.md R263 (U2, U3), 20_memory.md R51, 10_state.md R30, 46_commands.md R211 (e): a command that
reads a byte of `IN`, or a HASH64S with a byte of `CSEC[0 .. SECLEN - 1]`, that the host never wrote still reaches DONE
with its class, and `RESULT` is a free value (log 4, log 15). -/
def Obligations.UnwrittenBytesGiveAFreeResult : Prop :=
  ∀ s : State, s.ready → s.inbox = [] → s.len.toNat ≤ s.bufsz.toNat →
    (Mem.known s.input 0 s.len.toNat = false →
      ∃ t k u, exec .hash64 s = .next t ∧ k ≤ transitionBound s.len.toNat ∧ core.run k t = .next u ∧
        u.status = { state := .done, fcode := 0, lclass := (lengthClass s.len).code } ∧
        u.result = Config.freeWord s.draws ∧ u.draws = s.draws + 1 ∧ SameOperands s u) ∧
    (136 ≤ s.seclen.toNat → s.seclen.toNat ≤ 192 →
      Mem.known s.input 0 s.len.toNat = false ∨ Mem.known s.csec 0 s.seclen.toNat = false →
      ∃ t k u, exec .hash64s s = .next t ∧ k ≤ transitionBound s.len.toNat ∧ core.run k t = .next u ∧
        u.status = { state := .done, fcode := 0, lclass := (lengthClass s.len).code } ∧
        u.result = Config.freeWord s.draws ∧ u.draws = s.draws + 1 ∧ SameOperands s u)

/-- 46_commands.md R218, 70_reset_and_hazards.md R265: from every well-formed state in which a command is in flight the
engine, left alone, reaches DONE or FAULT within the bound of R267. -/
def Obligations.EveryCommandInFlightEnds : Prop :=
  ∀ s : State, s.Inv → s.status.state = .busy → s.inbox = [] →
    ∃ k u, k ≤ transitionBound s.latch.len.toNat ∧ core.run k s = .next u ∧
      (u.status.state = .done ∨ u.status.state = .fault)

/-- 46_commands.md R217, 10_state.md R34: the outcome of HASH64 over written input does not depend on scratch, on
earlier results or on the state it was issued in. -/
def Obligations.OutcomeIndependentOfHistory : Prop :=
  ∀ s s' t t' : State, s.ready → s'.ready → s.inbox = [] → s'.inbox = [] → SameOperands s s' →
    Mem.known s.input 0 s.len.toNat = true →
    exec .hash64 s = .next t → exec .hash64 s' = .next t' →
    ∃ k u u', core.run k t = .next u ∧ core.run k t' = .next u' ∧ u.status = u'.status ∧
      (u.status.state = .done ∧ u.result = u'.result ∨ u.status.state = .fault ∧ u.faultinfo = u'.faultinfo)

/-- 30_encoding.md R88, 20_memory.md R60: the host script `HASH seed, n` over written input ends with the queue empty
and with what it read: `STATUS` DONE with the class of `n`, and then in `RESULT` the hash of the first `n` bytes of
`IN` under `seed`. -/
def Obligations.HashScriptReadsHash : Prop :=
  ∀ (s : State) (seed n : Word), s.ready → s.inbox = hashScript seed n →
    Mem.known s.input 0 n.toNat = true →
    ∃ k u, core.run k s = .next u ∧ u.inbox = [] ∧
      u.status = { state := .done, fcode := 0, lclass := (lengthClass n).code } ∧
      u.reads =
        .reg 0x030 .b8 (hash64 Config.engine.shortPathSecret s.inputBytes n seed) ::
        .reg 0x008 .b4 (u.status.word.setWidth 64) :: s.reads

/-! ### The length-class strategies -/

/-- 42_dispatch_short.md R131 to R134: the four short strategies over written bytes: exactly the value of the rule's
pseudocode is returned, and nothing else changes. -/
def Obligations.ShortStrategiesReturnTheirHash : Prop :=
  (∀ (s : State) (S : SecretOperand) (seed : Word), s.Readable 0 S →
    exec (.len0 S seed) s = .next { s with
      out := avalanche64 (seed ^^^ (rd64 (s.secretBytes S) 56 ^^^ rd64 (s.secretBytes S) 64)) }) ∧
  (∀ (s : State) (n : Word) (S : SecretOperand) (seed : Word),
    1 ≤ n.toNat → n.toNat ≤ 3 → s.Readable n.toNat S →
    exec (.len1_3 n S seed) s = .next { s with
      out := avalanche64
        ((s.inputBytes (n.toNat / 2) ++ s.inputBytes 0 ++ n.extractLsb' 0 8 ++ s.inputBytes (n.toNat - 1)).setWidth 64
          ^^^ ((rd32 (s.secretBytes S) 0 ^^^ rd32 (s.secretBytes S) 4).setWidth 64 + seed)) }) ∧
  (∀ (s : State) (n : Word) (S : SecretOperand) (seed : Word),
    4 ≤ n.toNat → n.toNat ≤ 8 → s.Readable n.toNat S →
    exec (.len4_8 n S seed) s = .next { s with
      out := rrmxmx
        ((rd32 s.inputBytes 0 ++ rd32 s.inputBytes (n.toNat - 4))
          ^^^ ((rd64 (s.secretBytes S) 8 ^^^ rd64 (s.secretBytes S) 16)
            - (seed ^^^ (swap32 (lowHalf seed) ++ 0#32)))) n }) ∧
  (∀ (s : State) (n : Word) (S : SecretOperand) (seed : Word),
    9 ≤ n.toNat → n.toNat ≤ 16 → s.Readable n.toNat S →
    ∃ lo hi,
      lo = rd64 s.inputBytes 0 ^^^ ((rd64 (s.secretBytes S) 24 ^^^ rd64 (s.secretBytes S) 32) + seed) ∧
      hi = rd64 s.inputBytes (n.toNat - 8)
        ^^^ ((rd64 (s.secretBytes S) 40 ^^^ rd64 (s.secretBytes S) 48) - seed) ∧
      exec (.len9_16 n S seed) s = .next { s with out := avalanche (n + swap64 lo + hi + fold64 lo hi) })

/-- 43_dispatch_mid.md R150: LEN17_128 over written bytes; the rounds as a sum, whose order is free. -/
def Obligations.Len17To128ReturnsItsHash : Prop :=
  ∀ (s : State) (n : Word) (S : SecretOperand) (seed : Word),
    17 ≤ n.toNat → n.toNat ≤ 128 → s.Readable n.toNat S →
    ∃ h : Word,
      h = n * 0x9E3779B185EBCA87 + ∑ i ∈ Finset.range ((n.toNat + 31) / 32),
        (mix16 s.inputBytes (16 * i) (s.secretBytes S) (32 * i) seed +
          mix16 s.inputBytes (n.toNat - 16 * (i + 1)) (s.secretBytes S) (32 * i + 16) seed) ∧
      exec (.len17_128 n S seed) s =
        .next { s with hacc := h, rnd := BitVec.ofNat 4 ((n.toNat + 31) / 32), out := avalanche h }

/-- 43_dispatch_mid.md R151: LEN129_240 over written bytes: eight rounds, AVALANCHE, the further rounds, the last
round. That `RND`, in its 4 bits, has counted the last round too is log 9 and log 10 (DEDUCED). -/
def Obligations.Len129To240ReturnsItsHash : Prop :=
  ∀ (s : State) (n : Word) (S : SecretOperand) (seed : Word),
    129 ≤ n.toNat → n.toNat ≤ 240 → s.Readable n.toNat S →
    ∃ h8 h : Word,
      h8 = n * 0x9E3779B185EBCA87 +
        ∑ i ∈ Finset.range 8, mix16 s.inputBytes (16 * i) (s.secretBytes S) (16 * i) seed ∧
      h = avalanche h8 +
        ∑ i ∈ Finset.Ico 8 (n.toNat / 16),
          mix16 s.inputBytes (16 * i) (s.secretBytes S) (16 * (i - 8) + 3) seed +
        mix16 s.inputBytes (n.toNat - 16) (s.secretBytes S) 119 seed ∧
      exec (.len129_240 n S seed) s =
        .next { s with hacc := h, rnd := BitVec.ofNat 4 (n.toNat / 16 + 1), out := avalanche h }

/-- 44_stripe_engine.md R175: LONG over written bytes is INITACC, then STRIPELOOP, then MERGE; `ACC`, `HACC`, the two
counters and the value returned are all it changes. -/
def Obligations.LongRunsItsThreeParts : Prop :=
  ∀ (s : State) (n : Word) (S : SecretOperand), 241 ≤ n.toNat → s.Readable n.toNat S →
    ∃ a b t, exec .initacc s = .next a ∧ exec (.stripeloop n S) a = .next b ∧ exec (.merge n S) b = .next t ∧
      exec (.long n S) s = .next t ∧
      t = { s with acc := t.acc, hacc := t.hacc, blk := t.blk, str := t.str, out := t.out } ∧
      t.out = hashLong s.inputBytes n (s.secretBytes S) S.size

/-- 44_stripe_engine.md R173: STRIPELOOP over written bytes runs exactly the schedule, in its order. -/
def Obligations.StripeloopRunsTheSchedule : Prop :=
  ∀ (s : State) (n : Word) (S : SecretOperand), 241 ≤ n.toNat → s.Readable n.toNat S →
    exec (.stripeloop n S) s = .next { s with
      acc := (stripeSchedule n.toNat S.size).foldl (StripeOp.apply s.inputBytes (s.secretBytes S) S.size) s.acc
      blk := BitVec.ofNat 64 (fullBlocks n.toNat S.size)
      str := BitVec.ofNat 5 (tailStripes n.toNat S.size) }

/-- 44_stripe_engine.md R173 (corner cases a, f, g), 20_memory.md R55 and R65: how many ACCUMULATEs and SCRAMBLEs the
schedule has, that each reads inside the input and inside the secret, and that the stripes and the last stripe reach
every byte. -/
def Obligations.ScheduleCountsAndBounds : Prop :=
  ∀ n Z : Nat, 241 ≤ n → 136 ≤ Z → Z ≤ 192 →
    (stripeSchedule n Z).count .scramble = fullBlocks n Z ∧
    (stripeSchedule n Z).length = fullBlocks n Z * (stripesPerBlock Z + 1) + tailStripes n Z + 1 ∧
    tailStripes n Z < stripesPerBlock Z ∧
    fullBlocks n Z * stripesPerBlock Z + tailStripes n Z = (n - 1) / 64 ∧
    (Z = 192 → fullBlocks n Z = (n - 1) / 1024) ∧
    (∀ io so, StripeOp.accumulate io so ∈ stripeSchedule n Z → io + 64 ≤ n ∧ so + 64 ≤ Z) ∧
    (∀ a < n, ∃ io so, StripeOp.accumulate io so ∈ stripeSchedule n Z ∧ io ≤ a ∧ a < io + 64)

/-- 44_stripe_engine.md R174: MERGE over a written secret. -/
def Obligations.MergeFoldsTheFourPairs : Prop :=
  ∀ (s : State) (n : Word) (S : SecretOperand), S.wf = true → s.secretKnown S 11 64 = true →
    ∃ h : Word,
      h = n * 0x9E3779B185EBCA87 + ∑ p : Fin 4,
        fold64 (s.acc[2 * p.val] ^^^ rd64 (s.secretBytes S) (11 + 16 * p.val))
          (s.acc[2 * p.val + 1] ^^^ rd64 (s.secretBytes S) (19 + 16 * p.val)) ∧
      exec (.merge n S) s = .next { s with hacc := h, out := avalanche h }

/-- 20_memory.md R51, 10_state.md R30, 70_reset_and_hazards.md R263 (U2, U3): a strategy that reads a byte of `IN` that
holds no value still completes; `RESULT` is then unspecified (log 4), and the operands, `STATUS` and memory are as they
were. -/
def Obligations.StrategiesCompleteOnUnwrittenInput : Prop :=
  ∀ (s : State) (n : Word) (S L : SecretOperand) (seed : Word),
    S.wf = true → L.wf = true → n.toNat ≤ s.latch.len.toNat → Mem.known s.input 0 n.toNat = false →
    ∃ t, exec (strategyInstr n S L seed) s = .next t ∧ t.tainted = true ∧ t.status = s.status ∧ t.phase = s.phase ∧
      t.result = s.result ∧ t.esec = s.esec ∧ SameOperands s t ∧ SameHost s t

/-! ### The internal operations -/

/-- 41_deriver.md R120: DERIVE writes all twelve blocks of `ESEC`, the seed added to the first word and subtracted from
the second, and changes nothing else. -/
def Obligations.DeriveWritesTwelveBlocks : Prop :=
  ∀ (s : State) (seed : Word), ∃ e : Vector Byte 192,
    exec (.derive seed) s = .next { s with esec := e } ∧
    ∀ b < 12,
      rd64 (bytesOf e) (16 * b) = rd64 ksecBytes (16 * b) + seed ∧
      rd64 (bytesOf e) (16 * b + 8) = rd64 ksecBytes (16 * b + 8) - seed

/-- 42_dispatch_short.md R130: DISPATCH selects class and strategy by the length alone. -/
def Obligations.DispatchRoutesByLength : Prop :=
  ∀ (s : State) (n : Word),
    exec (.dispatch n) s = .next { s with
      nextClass :=
        if n.toNat = 0 then 0 else if n.toNat ≤ 3 then 1 else if n.toNat ≤ 8 then 2 else if n.toNat ≤ 16 then 3
        else if n.toNat ≤ 128 then 4 else if n.toNat ≤ 240 then 5 else 6
      phase := if n.toNat ≤ 16 then .short else if n.toNat ≤ 240 then .mid else .longBlock }

/-- 40_primitives.md R108: MIX16 over written bytes returns the value of the rule and changes nothing else; a chunk
that ends beyond `LEN` is a fault of the model (00_scope.md R11). -/
def Obligations.Mix16ReturnsTheFold : Prop :=
  ∀ (s : State) (io : Word) (S : SecretOperand) (so : Nat) (seed : Word),
    (io.toNat + 16 ≤ s.latch.len.toNat → S.wf = true → so + 16 ≤ S.size →
      Mem.known s.input io.toNat 16 = true → s.secretKnown S so 16 = true →
      exec (.mix16 io S so seed) s = .next { s with
        out := fold64 (rd64 s.inputBytes io.toNat ^^^ (rd64 (s.secretBytes S) so + seed))
          (rd64 s.inputBytes (io.toNat + 8) ^^^ (rd64 (s.secretBytes S) (so + 8) - seed)) }) ∧
    (s.latch.len.toNat < io.toNat + 16 → exec (.mix16 io S so seed) s = .fault (.inputOverread io.toNat))

/-- 44_stripe_engine.md R170. -/
def Obligations.InitaccSetsTheVector : Prop :=
  ∀ s : State, exec .initacc s = .next { s with
    acc := #v[0x00000000C2B2AE3D, 0x9E3779B185EBCA87, 0xC2B2AE3D27D4EB4F, 0x165667B19E3779F9,
      0x85EBCA77C2B2AE63, 0x0000000085EBCA77, 0x27D4EB2F165667C5, 0x000000009E3779B1] }

/-- 44_stripe_engine.md R171: ACCUMULATE over written bytes: every lane from the old accumulators, its own keyed word
and its neighbour's data word, equal to the sequential loop of the rule; nothing but `ACC` changes. -/
def Obligations.AccumulateAddsEveryLane : Prop :=
  ∀ (s : State) (io : Word) (S : SecretOperand) (so : Nat),
    io.toNat + 64 ≤ s.latch.len.toNat → S.wf = true → so + 64 ≤ S.size →
    Mem.known s.input io.toNat 64 = true → s.secretKnown S so 64 = true →
    ∃ a : Vector Word 8,
      exec (.accumulate io S so) s = .next { s with acc := a } ∧
      (∀ j : Fin 8, ∃ dv dk nb : Word,
        dv = rd64 s.inputBytes (io.toNat + 8 * j.val) ∧
        dk = dv ^^^ rd64 (s.secretBytes S) (so + 8 * j.val) ∧
        nb = rd64 s.inputBytes (io.toNat + 8 * (j.val ^^^ 1)) ∧
        a[j] = s.acc[j] + nb + BitVec.ofNat 64 ((dk.toNat % 2 ^ 32) * (dk.toNat / 2 ^ 32))) ∧
      a = accumulateLoop s.inputBytes io.toNat (s.secretBytes S) so s.acc

/-- 44_stripe_engine.md R172: SCRAMBLE over a written secret, lane by lane from the last 64 bytes of the secret; each
lane's map is injective; nothing but `ACC` changes. -/
def Obligations.ScrambleMixesEveryLane : Prop :=
  (∀ (s : State) (S : SecretOperand), S.wf = true → s.secretKnown S (S.size - 64) 64 = true →
    ∃ a : Vector Word 8,
      exec (.scramble S) s = .next { s with acc := a } ∧
      ∀ j : Fin 8,
        a[j] = (s.acc[j] ^^^ (s.acc[j] >>> 47) ^^^ rd64 (s.secretBytes S) (S.size - 64 + 8 * j.val)) * 0x9E3779B1#64) ∧
  (∀ (S : Bytes) (Z : Nat) (a b : Vector Word 8), scramble S Z a = scramble S Z b → a = b)

/-- 45_finishers.md R200, R201, R202: the finishers return the value of the rule's pseudocode and change nothing
else. -/
def Obligations.FinishersReturnTheirMix : Prop :=
  ∀ (s : State) (h len : Word),
    (∃ h1 h2 : Word, h1 = h ^^^ (h >>> 37) ∧ h2 = h1 * 0x165667919E3779F9#64 ∧
      exec (.avalanche h) s = .next { s with out := h2 ^^^ (h2 >>> 32) }) ∧
    (∃ h1 h2 h3 h4 : Word, h1 = h ^^^ (h >>> 33) ∧ h2 = h1 * 0xC2B2AE3D27D4EB4F#64 ∧ h3 = h2 ^^^ (h2 >>> 29) ∧
      h4 = h3 * 0x165667B19E3779F9#64 ∧
      exec (.avalanche64 h) s = .next { s with out := h4 ^^^ (h4 >>> 32) }) ∧
    (∃ h1 h2 h3 h4 : Word, h1 = h ^^^ h.rotateLeft 49 ^^^ h.rotateLeft 24 ∧ h2 = h1 * 0x9FB21C651E98DF25#64 ∧
      h3 = h2 ^^^ ((h2 >>> 35) + len) ∧ h4 = h3 * 0x9FB21C651E98DF25#64 ∧
      exec (.rrmxmx h len) s = .next { s with out := h4 ^^^ (h4 >>> 28) })

/-- 45_finishers.md R204: AVALANCHE and AVALANCHE64 are injective. -/
def Obligations.AvalanchesAreInjective : Prop :=
  (∀ x y : Word, avalanche x = avalanche y → x = y) ∧ (∀ x y : Word, avalanche64 x = avalanche64 y → x = y)

/-- 45_finishers.md R204: RRMXMX is injective for each fixed length of its class. -/
def Obligations.RrmxmxIsInjective : Prop :=
  ∀ (len x y : Word), 4 ≤ len.toNat → len.toNat ≤ 8 → rrmxmx x len = rrmxmx y len → x = y

/-! ### Primitives and the hash function -/

/-- 40_primitives.md R102: `mul32` is the exact product of the halves; it never wraps. -/
def Obligations.Mul32IsTheExactProduct : Prop :=
  (∀ x : Word, (mul32 x).toNat = (x.toNat % 2 ^ 32) * (x.toNat / 2 ^ 32)) ∧
  (∀ x : Word, lowHalf x = 0 ∨ highHalf x = 0 → mul32 x = 0) ∧
  mul32 0x00000000FFFFFFFF = 0 ∧ mul32 0xFFFFFFFFFFFFFFFF = 0xFFFFFFFE00000001

/-- 40_primitives.md R103: `fold64` is the exclusive or of the halves of the exact 128-bit product; it is symmetric,
with the rule's corner cases and values. -/
def Obligations.Fold64FoldsTheProduct : Prop :=
  (∀ a b : Word, (fold64 a b).toNat = (a.toNat * b.toNat % 2 ^ 64) ^^^ (a.toNat * b.toNat / 2 ^ 64)) ∧
  (∀ a b : Word, fold64 a b = fold64 b a) ∧
  (∀ a : Word, fold64 a 0 = 0 ∧ fold64 a 1 = a) ∧
  fold64 0x100000000 0x100000000 = 1 ∧
  fold64 0xFFFFFFFFFFFFFFFF 0xFFFFFFFFFFFFFFFF = 0xFFFFFFFFFFFFFFFF ∧
  fold64 0x0123456789ABCDEF 0xFEDCBA9876543210 = 0x2317228F48165BB2 ∧
  fold64 0x9E3779B185EBCA87 0xC2B2AE3D27D4EB4F = 0xA6A7237BAA01EC01

/-- 40_primitives.md R106: the byte swaps reverse the bytes. -/
def Obligations.SwapsReverseTheBytes : Prop :=
  (∀ (x : Half), ∀ k < 4, (swap32 x).extractLsb' (8 * k) 8 = x.extractLsb' (8 * (3 - k)) 8) ∧
  (∀ (x : Word), ∀ k < 8, byteOf (swap64 x) k = byteOf x (7 - k)) ∧
  swap32 0x11223344 = 0x44332211 ∧ swap64 0x0102030405060708 = 0x0807060504030201

/-- 20_memory.md R52: the typed reads are little-endian sums of their bytes at any offset, and the low half of a 64-bit
read is the 32-bit read. -/
def Obligations.ReadsAreLittleEndian : Prop :=
  ∀ (X : Bytes) (o : Nat),
    (rd32 X o).toNat = ∑ k ∈ Finset.range 4, 2 ^ (8 * k) * (X (o + k)).toNat ∧
    (rd64 X o).toNat = ∑ k ∈ Finset.range 8, 2 ^ (8 * k) * (X (o + k)).toNat ∧
    lowHalf (rd64 X o) = rd32 X o

/-- 20_memory.md R55: in every class each read lies in `[0, n)` and every offset of `[0, n)` is read. -/
def Obligations.ReadsCoverTheInputAndNoMore : Prop :=
  ∀ n : Word,
    (∀ r ∈ inputReads n.toNat (lengthClass n), r.1 + r.2 ≤ n.toNat) ∧
    (∀ a < n.toNat, ∃ r ∈ inputReads n.toNat (lengthClass n), r.1 ≤ a ∧ a < r.1 + r.2)

/-- 20_memory.md R55, 46_commands.md R215 and R211 (b): the hash depends on no input byte at or beyond the length, and
on no secret byte at or beyond 136 for lengths up to 240, nor at or beyond the secret's size for any length. -/
def Obligations.HashDependsOnItsBytesOnly : Prop :=
  (∀ (p : ShortPathSecret) (inp inp' : Bytes) (n seed : Word),
    (∀ a < n.toNat, inp a = inp' a) → hash64 p inp n seed = hash64 p inp' n seed) ∧
  (∀ (inp inp' : Bytes) (n : Word) (S S' : Bytes) (Z : Nat), 136 ≤ Z → Z ≤ 192 →
    (∀ a < n.toNat, inp a = inp' a) → (∀ a < Z, S a = S' a) → hash64s inp n S Z = hash64s inp' n S' Z) ∧
  (∀ (inp : Bytes) (n : Word) (S S' : Bytes) (Z Z' : Nat), n.toNat ≤ 240 →
    (∀ a < 136, S a = S' a) → hash64s inp n S Z = hash64s inp n S' Z')

/-- 46_commands.md R211 (d), R215: with the Secret Table as custom secret of 192 bytes HASH64S computes HASH64 with
seed 0, under either reading of `SHORT_PATH_SECRET`. -/
def Obligations.TableAsCustomSecretIsSeedZero : Prop :=
  ∀ (p : ShortPathSecret) (inp : Bytes) (n : Word), hash64 p inp n 0 = hash64s inp n ksecBytes 192

/-- 41_deriver.md R121, R122: the two readings of `SHORT_PATH_SECRET` agree at seed 0 and above 240 bytes, and under
`Derived` the seeds 0 and 1 collide on every input of 1 to 3 bytes. -/
def Obligations.ShortPathReadingsCompared : Prop :=
  (∀ (inp : Bytes) (n seed : Word), seed = 0 ∨ 240 < n.toNat →
    hash64 .base inp n seed = hash64 .derived inp n seed) ∧
  (∀ (inp : Bytes) (n : Word), 1 ≤ n.toNat → n.toNat ≤ 3 →
    hash64 .derived inp n 1 = hash64 .derived inp n 0)

/-- 41_deriver.md R120 (d): deriving with a seed and then with its negative restores every 192-byte secret. -/
def Obligations.DeriveIsUndoneByTheNegatedSeed : Prop :=
  ∀ (v : Vector Byte 192) (seed : Word),
    deriveSecret (bytesOf (deriveSecret (bytesOf v) seed)) (0 - seed) = v

/-! ### Invariants -/

/-- The invariant holds after reset (10_state.md R35). -/
def Obligations.ResetIsWellFormed : Prop := State.reset.Inv

/-- The invariant of Safety.lean (10_state.md R24, R25, R30; 46_commands.md R216; 60_exceptions.md R230, R235) is kept
by every step, whoever moves. -/
def Obligations.EveryStepKeepsTheInvariant : Prop :=
  ∀ s t : State, s.Inv → step s = .next t → t.Inv

/-- 20_memory.md R55, 00_scope.md R11, 60_exceptions.md R231: in a well-formed state no step reads `IN` outside
`0 .. LEN - 1` or a secret outside its size: a step stops only on a host access that 20_memory.md R58 does not
specify. -/
def Obligations.StepsNeverOverread : Prop :=
  ∀ s : State, s.Inv →
    (∀ r, step s = .fault r → ∃ off, r = .outsideWindow off ∧ 0x200 ≤ off) ∧
    (∀ r, step s = .refused r → ∃ off w, r = .unspecifiedAccess off w ∧ off < 0x200)

/-- 10_state.md R26: in every well-formed state `BLK` stays up to `(2^64 - 2) / 576`, `STR` up to 16 in a full block and
up to 15 in the tail, and `RND`, while a round remains, is the number of a round the length has: up to 3, or up to 15.
That a bit beside `RND` says whether a round remains, after sixteen of which the 4 bits stand at 0 again, is log 9
(DEDUCED), and that the last round of LEN129_240 is one of those counted is log 10 (DEDUCED). -/
def Obligations.CountersStayInRange : Prop :=
  ∀ s : State, s.Inv →
    (s.phase = .mid → s.roundsDone = false →
      (s.latch.len.toNat ≤ 128 → s.rnd.toNat < (s.latch.len.toNat + 31) / 32 ∧ s.rnd.toNat ≤ 3) ∧
      (129 ≤ s.latch.len.toNat → s.rnd.toNat < s.latch.len.toNat / 16 + 1)) ∧
    (s.phase = .longBlock → s.blk.toNat ≤ (2 ^ 64 - 2) / 576 ∧ s.str.toNat ≤ 16) ∧
    (s.phase = .longTail → s.str.toNat ≤ 15)

/-- 46_commands.md R216, 60_exceptions.md R235, R246, 44_stripe_engine.md R173: with no host move queued a well-formed
state goes to the phase that the conditions of Table PHASE give, and `RND`, `BLK` and `STR` count as its operations say;
in P_IDLE, P_DONE and P_FAULT the engine rests. `Z` is the size of the secret operand, `nspb`, `nb` and `nstr` the counts
of R173, `rounds` those of 43_dispatch_mid.md R150 and R151. What the internal operations on a transition compute is
stated of each of them and, all together, by `Hash64Completes` and `Hash64sCompletes`.
The model's choices are: one transition a step (log 8, DESIGN CHOICE); that the bit `roundsDone` says whether a round
remains (log 9, DEDUCED) and what one round is (log 10, DEDUCED); and that the field `FAULTINFO`, which R22 of 10_state.md
leaves unspecified outside FAULT, keeps its content unless the step faults (log 5, DESIGN CHOICE). -/
def Obligations.SequencerFollowsTablePhase : Prop :=
  ∀ (s : State) (n Z nspb nb nstr rounds : Nat), s.Inv → s.inbox = [] →
    n = s.latch.len.toNat → Z = (if s.latch.cmd = .hash64 then 192 else s.latch.seclen.toNat) →
    nspb = (Z - 64) / 8 → nb = (n - 1) / (64 * nspb) → nstr = ((n - 1) - 64 * nspb * nb) / 64 →
    rounds = (if n ≤ 128 then (n + 31) / 32 else n / 16 + 1) →
    ∃ t, step s = .next t ∧
      (s.phase = .idle ∨ s.phase = .done ∨ s.phase = .fault → t = s) ∧
      (s.phase = .check → t.phase =
        if s.latch.bufsz.toNat < n ∨ s.latch.cmd = .hash64s ∧ (Z < 136 ∨ 192 < Z) then .fault
        else if s.latch.cmd = .hash64 then .derive
        else .dispatch) ∧
      (s.phase = .derive → t.phase = .dispatch) ∧
      (s.phase = .dispatch → n ≤ 16 → t.phase = .short) ∧
      (s.phase = .dispatch → 17 ≤ n → n ≤ 240 → t.phase = .mid ∧ t.rnd = 0 ∧ t.roundsDone = false) ∧
      (s.phase = .dispatch → 241 ≤ n → t.phase = .longBlock ∧ t.blk = 0 ∧ t.str = 0) ∧
      (s.phase = .short → t.phase = .finish) ∧
      (s.phase = .mid → s.roundsDone = false →
        s.rnd.toNat < rounds ∧ t.phase = .mid ∧ t.rnd = s.rnd + 1 ∧
          (t.roundsDone = true ↔ s.rnd.toNat + 1 = rounds)) ∧
      (s.phase = .mid → s.roundsDone = true → s.rnd.toNat = rounds % 16 ∧ t.phase = .finish) ∧
      (s.phase = .longBlock → s.blk.toNat < nb → s.str.toNat < nspb →
        t.phase = .longBlock ∧ t.blk = s.blk ∧ t.str = s.str + 1) ∧
      (s.phase = .longBlock → s.blk.toNat < nb → s.str.toNat = nspb →
        t.phase = .longBlock ∧ t.blk = s.blk + 1 ∧ t.str = 0) ∧
      (s.phase = .longBlock → s.blk.toNat = nb → s.str = 0 ∧ t.phase = .longTail ∧ t.blk = s.blk ∧ t.str = 0) ∧
      (s.phase = .longBlock → s.blk.toNat ≤ nb ∧ s.str.toNat ≤ nspb) ∧
      (s.phase = .longTail → s.str.toNat < nstr → t.phase = .longTail ∧ t.str = s.str + 1) ∧
      (s.phase = .longTail → s.str.toNat = nstr → t.phase = .longLast) ∧
      (s.phase = .longTail → s.str.toNat ≤ nstr) ∧
      (s.phase = .longLast → t.phase = .merge) ∧
      (s.phase = .merge → t.phase = .finish) ∧
      (s.phase = .finish → t.phase = .done) ∧
      SameOperands s t ∧ t.latch = s.latch ∧ (t.phase ≠ .fault → t.faultinfo = s.faultinfo)

/-! ### The host's registers and memory -/

/-- 10_state.md R21, R25, R30; 20_memory.md R58: a host write to an operand register or to bytes of `CSEC`, naturally
aligned, takes effect at once and alone, except in BUSY, where it is ignored. -/
def Obligations.OperandWritesByState : Prop :=
  ∀ (s : State) (v : Word) (rest : List HostMove),
    (s.inbox = .write 0x010 .b8 v :: rest →
      step s = .next { s with inbox := rest, seed := if s.status.state = .busy then s.seed else v }) ∧
    (s.inbox = .write 0x018 .b8 v :: rest →
      step s = .next { s with inbox := rest, len := if s.status.state = .busy then s.len else v }) ∧
    (s.inbox = .write 0x020 .b8 v :: rest →
      step s = .next { s with inbox := rest, bufsz := if s.status.state = .busy then s.bufsz else v }) ∧
    (s.inbox = .write 0x028 .b4 v :: rest →
      step s = .next { s with
        inbox := rest, seclen := if s.status.state = .busy then s.seclen else v.extractLsb' 0 32 }) ∧
    (∀ (k : Nat) (w : Width), k < 192 → k % w.bytes = 0 → s.inbox = .write (0x100 + k) w v :: rest → ∃ c,
      step s = .next { s with inbox := rest, csec := c } ∧
      ∀ a, Mem.read? c a =
        if s.status.state ≠ .busy ∧ k ≤ a ∧ a < k + w.bytes then some (v.extractLsb' (8 * (a - k)) 8)
        else Mem.read? s.csec a)

/-- 10_state.md R22, R23, R24; 20_memory.md R58: writes to `STATUS`, `RESULT`, `FAULTINFO` and the reserved offsets are
ignored in every state. -/
def Obligations.ReadOnlyRegistersIgnoreWrites : Prop :=
  ∀ (s : State) (off : Nat) (w : Width) (v : Word) (rest : List HostMove),
    s.inbox = .write off w v :: rest →
    (off = 0x008 ∧ w = .b4 ∨ off = 0x030 ∧ w = .b8 ∨ off = 0x038 ∧ w = .b8 ∨
      off % w.bytes = 0 ∧ (0x040 ≤ off ∧ off < 0x100 ∨ 0x1C0 ≤ off ∧ off < 0x200)) →
    step s = .next { s with inbox := rest }

/-- 10_state.md R21 to R24; 20_memory.md R58; U1 of 70_reset_and_hazards.md R263: what a host read returns: the
register; 0 from `CMD` and reserved offsets; a free value, drawn afresh, from `RESULT` outside DONE and `FAULTINFO`
outside FAULT. A read changes nothing but what has been read and the count of draws. -/
def Obligations.ReadsReturnRegisters : Prop :=
  ∀ (s : State) (off : Nat) (w : Width) (rest : List HostMove) (x : Word) (d : Nat),
    s.inbox = .read off w :: rest →
    (off = 0x000 ∧ w = .b4 ∧ x = 0 ∧ d = 0 ∨
      off = 0x008 ∧ w = .b4 ∧ x = s.status.word.setWidth 64 ∧ d = 0 ∨
      off = 0x010 ∧ w = .b8 ∧ x = s.seed ∧ d = 0 ∨
      off = 0x018 ∧ w = .b8 ∧ x = s.len ∧ d = 0 ∨
      off = 0x020 ∧ w = .b8 ∧ x = s.bufsz ∧ d = 0 ∨
      off = 0x028 ∧ w = .b4 ∧ x = s.seclen.setWidth 64 ∧ d = 0 ∨
      off = 0x030 ∧ w = .b8 ∧ s.status.state = .done ∧ x = s.result ∧ d = 0 ∨
      off = 0x030 ∧ w = .b8 ∧ s.status.state ≠ .done ∧ x = Config.freeWord s.draws ∧ d = 1 ∨
      off = 0x038 ∧ w = .b8 ∧ s.status.state = .fault ∧ x = s.faultinfo ∧ d = 0 ∨
      off = 0x038 ∧ w = .b8 ∧ s.status.state ≠ .fault ∧ x = Config.freeWord s.draws ∧ d = 1 ∨
      off % w.bytes = 0 ∧ (0x040 ≤ off ∧ off < 0x100 ∨ 0x1C0 ≤ off ∧ off < 0x200) ∧ x = 0 ∧ d = 0) →
    step s = .next { s with
      inbox := rest, reads := .reg off w x :: s.reads, draws := s.draws + d }

/-- 10_state.md R30, 20_memory.md R52, R58: a host read of written bytes of `CSEC`, naturally aligned, returns them
little-endian. -/
def Obligations.CsecReadsAreLittleEndian : Prop :=
  ∀ (s : State) (k : Nat) (w : Width) (rest : List HostMove),
    s.inbox = .read (0x100 + k) w :: rest → k < 192 → k % w.bytes = 0 → Mem.known s.csec k w.bytes = true →
    ∃ x : Word,
      step s = .next { s with
        inbox := rest, reads := .reg (0x100 + k) w x :: s.reads } ∧
      x.toNat = ∑ i ∈ Finset.range w.bytes, 2 ^ (8 * i) * ((Mem.read? s.csec (k + i)).getD 0).toNat

/-- 10_state.md R24: the fields of the `STATUS` word, and its reserved bits. -/
def Obligations.StatusWordFields : Prop :=
  ∀ t : Status,
    (t.word.extractLsb' 0 2 = 0 ↔ t.state = .idle) ∧ (t.word.extractLsb' 0 2 = 1 ↔ t.state = .busy) ∧
    (t.word.extractLsb' 0 2 = 2 ↔ t.state = .done) ∧ (t.word.extractLsb' 0 2 = 3 ↔ t.state = .fault) ∧
    t.word.extractLsb' 2 2 = 0 ∧ t.word.extractLsb' 4 4 = t.fcode ∧ t.word.extractLsb' 8 3 = t.lclass ∧
    t.word.extractLsb' 11 21 = 0

/-- 20_memory.md R58 (U5 of 70_reset_and_hazards.md R263): every access inside the window that R58 does not specify is
refused. It specifies an access of the register's width at each register's offset, and naturally aligned accesses of 1,
2, 4 or 8 bytes from 0x040 on; that it also specifies the aligned accesses inside the reserved half above a 32-bit
register is log 7 (DEDUCED), so nothing is said of those here. An offset outside the 512 bytes faults (log 7, DEDUCED).
In neither case does the machine go on. -/
def Obligations.UnspecifiedAccessesStop : Prop :=
  ∀ (s : State) (off : Nat) (w : Width) (v : Word) (rest : List HostMove),
    s.inbox = .write off w v :: rest ∨ s.inbox = .read off w :: rest →
    (off < 0x200 →
      ¬ (off ∈ [0x010, 0x018, 0x020, 0x030, 0x038] ∧ w = .b8 ∨ off ∈ [0x000, 0x008, 0x028] ∧ w = .b4 ∨
        0x040 ≤ off ∧ off % w.bytes = 0 ∨
        (0x004 ≤ off ∧ off < 0x008 ∨ 0x00C ≤ off ∧ off < 0x010 ∨ 0x02C ≤ off ∧ off < 0x030) ∧ off % w.bytes = 0) →
      step s = .refused (.unspecifiedAccess off w)) ∧
    (0x200 ≤ off → step s = .fault (.outsideWindow off))

/-- 10_state.md R20, R25, 46_commands.md R219: in BUSY no host write or read of `REG` and no read of `IN` disturbs the
engine: everything but the queue, what has been read and the count of draws stays. -/
def Obligations.HostAccessesLeaveBusyEngineAlone : Prop :=
  ∀ (s t : State) (m : HostMove) (rest : List HostMove), s.status.state = .busy → s.inbox = m :: rest →
    (∃ off w v, m = .write off w v) ∨ (∃ off w, m = .read off w) ∨ (∃ off, m = .load off) → step s = .next t →
    t = { s with inbox := rest, reads := t.reads, draws := t.draws }

/-- 20_memory.md R51, R57 (U4): a host store sets its byte of `IN` and no other; into `IN[0 .. LEN - 1]` of a command in
flight it makes `RESULT` unspecified (log 6), elsewhere it does not. 10_state.md R20: a host read of a byte of `IN`
returns the byte stored there and changes nothing else; of a byte that holds none it returns a free one, drawn afresh,
which is the model's choice (log 5). -/
def Obligations.HostStoresReachOneByte : Prop :=
  ∀ (s : State) (off : Word) (rest : List HostMove),
    (∀ b, s.inbox = .store off b :: rest →
      ∃ m x, step s = .next { s with inbox := rest, input := m, tainted := x } ∧
        (∀ a, Mem.read? m a = if a = off.toNat then some b else Mem.read? s.input a) ∧
        (s.status.state = .busy → off.toNat < s.latch.len.toNat → x = true) ∧
        (s.status.state ≠ .busy ∨ s.latch.len.toNat ≤ off.toNat → x = s.tainted)) ∧
    (s.inbox = .load off :: rest →
      (∀ b, Mem.read? s.input off.toNat = some b →
        step s = .next { s with inbox := rest, reads := .input off b :: s.reads }) ∧
      (Mem.read? s.input off.toNat = none →
        step s = .next { s with
          inbox := rest
          reads := .input off (Config.freeByte .input s.draws off.toNat) :: s.reads
          draws := s.draws + 1 }))

/-- 10_state.md R35, 70_reset_and_hazards.md R260: reset, from every state, gives the values R35 states, no byte of
`CSEC` holding one, and leaves the host's `IN` alone. That `IN`, the queue and the reads stay is log 16. -/
def Obligations.ResetGivesTheResetValues : Prop :=
  ∀ (s : State) (rest : List HostMove), s.inbox = .reset :: rest → ∃ t, step s = .next t ∧
    t.status.word = 0x00000700#32 ∧ t.seed = 0 ∧ t.len = 0 ∧ t.bufsz = 0 ∧ t.seclen = 0 ∧ t.phase = .idle ∧
    (∀ a, Mem.read? t.csec a = none) ∧ (∀ a, Mem.read? t.input a = Mem.read? s.input a) ∧
    t.inbox = rest ∧ t.reads = s.reads ∧
    State.reset.status.word = 0x00000700#32 ∧ State.reset.seed = 0 ∧ State.reset.len = 0 ∧ State.reset.bufsz = 0 ∧
    State.reset.seclen = 0 ∧ State.reset.phase = .idle
end

