-- ==== Sys2Proof/Laws/Config.lean ====
section
/-! SUPPORT. The value of each field of the configuration, so that no later proof unfolds `Config.engine`; that the
sizes in the model's types are those of the configuration (10_state.md R36, log 23); and the counts of the rules at
those values. -/

namespace Sys2Proof

@[simp] theorem Config.engine_secretSize : Config.engine.secretSize = 192 := rfl
@[simp] theorem Config.engine_secretMin : Config.engine.secretMin = 136 := rfl
@[simp] theorem Config.engine_stripeLen : Config.engine.stripeLen = 64 := rfl
@[simp] theorem Config.engine_nbAcc : Config.engine.nbAcc = 8 := rfl
@[simp] theorem Config.engine_lane : Config.engine.lane = 8 := rfl
@[simp] theorem Config.engine_stripesPerBlock : Config.engine.stripesPerBlock = 16 := rfl
@[simp] theorem Config.engine_blockLen : Config.engine.blockLen = 1024 := rfl
@[simp] theorem Config.engine_len0Max : Config.engine.len0Max = 0 := rfl
@[simp] theorem Config.engine_len1_3Max : Config.engine.len1_3Max = 3 := rfl
@[simp] theorem Config.engine_len4_8Max : Config.engine.len4_8Max = 8 := rfl
@[simp] theorem Config.engine_len9_16Max : Config.engine.len9_16Max = 16 := rfl
@[simp] theorem Config.engine_len17_128Max : Config.engine.len17_128Max = 128 := rfl
@[simp] theorem Config.engine_len129_240Max : Config.engine.len129_240Max = 240 := rfl
@[simp] theorem Config.engine_deriveBlocks : Config.engine.deriveBlocks = 12 := rfl
@[simp] theorem Config.engine_resultWidth : Config.engine.resultWidth = 64 := rfl
@[simp] theorem Config.engine_seedWidth : Config.engine.seedWidth = 64 := rfl
@[simp] theorem Config.engine_lenWidth : Config.engine.lenWidth = 64 := rfl
@[simp] theorem Config.engine_addrWidth : Config.engine.addrWidth = 64 := rfl
@[simp] theorem Config.engine_hasCustomSecret : Config.engine.hasCustomSecret = true := rfl
@[simp] theorem Config.engine_csecCapacity : Config.engine.csecCapacity = 192 := rfl
@[simp] theorem Config.engine_hasSeedCache : Config.engine.hasSeedCache = false := rfl
@[simp] theorem Config.engine_shortPathSecret : Config.engine.shortPathSecret = .base := rfl
@[simp] theorem Config.engine_prime32_1 : Config.engine.prime32_1 = 0x9E3779B1#32 := rfl
@[simp] theorem Config.engine_prime32_2 : Config.engine.prime32_2 = 0x85EBCA77#32 := rfl
@[simp] theorem Config.engine_prime32_3 : Config.engine.prime32_3 = 0xC2B2AE3D#32 := rfl
@[simp] theorem Config.engine_prime64_1 : Config.engine.prime64_1 = 0x9E3779B185EBCA87#64 := rfl
@[simp] theorem Config.engine_prime64_2 : Config.engine.prime64_2 = 0xC2B2AE3D27D4EB4F#64 := rfl
@[simp] theorem Config.engine_prime64_3 : Config.engine.prime64_3 = 0x165667B19E3779F9#64 := rfl
@[simp] theorem Config.engine_prime64_4 : Config.engine.prime64_4 = 0x85EBCA77C2B2AE63#64 := rfl
@[simp] theorem Config.engine_prime64_5 : Config.engine.prime64_5 = 0x27D4EB2F165667C5#64 := rfl
@[simp] theorem Config.engine_primeMx1 : Config.engine.primeMx1 = 0x165667919E3779F9#64 := rfl
@[simp] theorem Config.engine_primeMx2 : Config.engine.primeMx2 = 0x9FB21C651E98DF25#64 := rfl

/-- `N_ENGINES` is at least 1, whatever it is (00_scope.md R7). -/
theorem Config.one_le_nEngines : 1 ≤ Config.engine.nEngines := Nat.le_add_left _ _

/-- The widths of `LEN`, offsets, seed and result are that of `Word`. -/
theorem Config.widths_are_word :
    Word = BitVec Config.engine.lenWidth ∧ Word = BitVec Config.engine.addrWidth ∧
      Word = BitVec Config.engine.seedWidth ∧ Word = BitVec Config.engine.resultWidth := ⟨rfl, rfl, rfl, rfl⟩

/-- The accumulators and the two secrets of State have the configured sizes. -/
theorem Config.vectors_are_sized :
    Vector Word 8 = Vector Word Config.engine.nbAcc ∧ Vector Byte 192 = Vector Byte Config.engine.secretSize :=
  ⟨rfl, rfl⟩

/-- A stripe is its lanes, and the secret its 16-byte blocks. -/
theorem Config.sizes_agree :
    Config.engine.stripeLen = Config.engine.nbAcc * Config.engine.lane ∧
      Config.engine.secretSize = 16 * Config.engine.deriveBlocks ∧
      Config.engine.csecCapacity = Config.engine.secretSize := ⟨rfl, rfl, rfl⟩

/-- Stripes and bytes of a block of the 192-byte secret (R6) are those of 44_stripe_engine.md R173. -/
theorem Config.block_agrees :
    Config.engine.stripesPerBlock = Machine.stripesPerBlock Config.engine.secretSize ∧
      Config.engine.blockLen = Machine.blockLen Config.engine.secretSize := ⟨rfl, rfl⟩

namespace Machine

theorem stripesPerBlock_eq (Z : Nat) : stripesPerBlock Z = (Z - 64) / 8 := rfl
theorem blockLen_eq (Z : Nat) : blockLen Z = 64 * stripesPerBlock Z := rfl
theorem tailStripes_eq (n Z : Nat) : tailStripes n Z = ((n - 1) - blockLen Z * fullBlocks n Z) / 64 := rfl

end Machine

theorem SecretOperand.wf_csec (z : Nat) : (SecretOperand.csec z).wf = decide (136 ≤ z ∧ z ≤ 192) := rfl

/-- The class of a length by its bounds. -/
theorem lengthClass_eq (n : Word) :
    lengthClass n =
      if n.toNat ≤ 0 then .len0
      else if n.toNat ≤ 3 then .len1_3
      else if n.toNat ≤ 8 then .len4_8
      else if n.toNat ≤ 16 then .len9_16
      else if n.toNat ≤ 128 then .len17_128
      else if n.toNat ≤ 240 then .len129_240
      else .long := rfl

end Sys2Proof
end

