-- ==== Sys2Proof/Laws/Decode.lean ====
section
/-! SUPPORT. The decode by the number a word stands for, and words and their four bytes. -/

namespace Sys2Proof

theorem opField_toNat (w : Half) : (opField w).toNat = w.toNat % 256 := by
  simp [opField]

theorem reservedField_toNat (w : Half) : (reservedField w).toNat = w.toNat / 256 := by
  have := w.isLt
  simp [reservedField, Nat.shiftRight_eq_div_pow]
  omega

/-- The decode of a word by its number: the four commands are 0 to 3, and every other word is illegal. -/
theorem decodeWord_by_number (w : Half) :
    decodeWord w =
      if w.toNat = 0 then .ok .nop
      else if w.toNat = 1 then .ok .hash64
      else if w.toNat = 2 then .ok .hash64s
      else if w.toNat = 3 then .ok .clear
      else .error (.illegalCommand w) := by
  have ho := opField_toNat w
  have hr := reservedField_toNat w
  have hr0 : reservedField w ≠ 0 ↔ w.toNat / 256 ≠ 0 := by
    rw [← hr, ne_eq, ne_eq, ← BitVec.toNat_inj]; simp
  have h3 : 0x03 < opField w ↔ 3 < w.toNat % 256 := by rw [BitVec.lt_def, ho]; simp
  have h0 : opField w = 0x00 ↔ w.toNat % 256 = 0 := by rw [← ho, ← BitVec.toNat_inj]; simp
  have h1 : opField w = 0x01 ↔ w.toNat % 256 = 1 := by rw [← ho, ← BitVec.toNat_inj]; simp
  have h2 : opField w = 0x02 ↔ w.toNat % 256 = 2 := by rw [← ho, ← BitVec.toNat_inj]; simp
  unfold decodeWord
  simp only [hr0, h3, h0, h1, h2]
  repeat' split
  all_goals first | rfl | (exfalso; omega)

/-- The number of a word put together from four bytes. -/
theorem wordOfBytes_toNat (b0 b1 b2 b3 : Byte) :
    (wordOfBytes b0 b1 b2 b3).toNat = b0.toNat + 2 ^ 8 * b1.toNat + 2 ^ 16 * b2.toNat + 2 ^ 24 * b3.toNat := by
  rw [wordOfBytes, BitVec.toNat_append, BitVec.toNat_append, BitVec.toNat_append,
    ← Nat.shiftLeft_add_eq_or_of_lt b0.isLt, ← Nat.shiftLeft_add_eq_or_of_lt b1.isLt,
    ← Nat.shiftLeft_add_eq_or_of_lt b2.isLt]
  simp only [Nat.shiftLeft_eq]
  omega

/-- A word is put together again from its four bytes. -/
theorem wordOfBytes_of_word (w : Half) :
    wordOfBytes (w.extractLsb' 0 8) (w.extractLsb' 8 8) (w.extractLsb' 16 8) (w.extractLsb' 24 8) = w := by
  apply BitVec.eq_of_toNat_eq
  have := w.isLt
  rw [wordOfBytes_toNat]
  simp only [BitVec.extractLsb'_toNat, Nat.shiftRight_eq_div_pow]
  omega

/-- The bytes of a word put together from four bytes are those four. -/
theorem bytesOfWord_wordOfBytes (b0 b1 b2 b3 : Byte) : bytesOfWord (wordOfBytes b0 b1 b2 b3) = [b0, b1, b2, b3] := by
  have h0 := b0.isLt
  have h1 := b1.isLt
  have h2 := b2.isLt
  have h3 := b3.isLt
  have hw := wordOfBytes_toNat b0 b1 b2 b3
  simp only [bytesOfWord, List.cons.injEq, and_true]
  refine ⟨?_, ?_, ?_, ?_⟩ <;> apply BitVec.eq_of_toNat_eq <;>
    rw [BitVec.extractLsb'_toNat, hw, Nat.shiftRight_eq_div_pow] <;> omega

end Sys2Proof
end

