-- ==== Sys2Proof/Laws/Memory.lean ====
section
/-! SUPPORT. The laws of byte memories: a read after a write, and that every operation keeps the canonical form. -/

namespace Sys2Proof.Machine

theorem Mem.read?_write_same (m : Mem) (a : Nat) (v : Byte) : Mem.read? (Mem.write m a v) a = some v := by
  induction m with
  | nil => simp [Mem.write, Mem.read?]
  | cons c m ih =>
    obtain ⟨k, b⟩ := c
    by_cases h1 : a < k
    · simp [Mem.write, Mem.read?, h1]
    · by_cases h2 : a = k
      · simp [Mem.write, Mem.read?, h2]
      · simp [Mem.write, Mem.read?, h1, h2, ih]

theorem Mem.read?_write_other (m : Mem) {a a' : Nat} (v : Byte) (h : a' ≠ a) :
    Mem.read? (Mem.write m a v) a' = Mem.read? m a' := by
  induction m with
  | nil => simp [Mem.write, Mem.read?, h]
  | cons c m ih =>
    obtain ⟨k, b⟩ := c
    by_cases h1 : a < k
    · simp [Mem.write, Mem.read?, h1, h]
    · by_cases h2 : a = k
      · subst h2
        simp [Mem.write, Mem.read?, h]
      · simp [Mem.write, Mem.read?, h1, h2, ih]

theorem Mem.read?_write (m : Mem) (a a' : Nat) (v : Byte) :
    Mem.read? (Mem.write m a v) a' = if a' = a then some v else Mem.read? m a' := by
  split
  · next h => rw [h, Mem.read?_write_same]
  · next h => rw [Mem.read?_write_other m v h]

theorem Mem.mem_write {m : Mem} {a : Nat} {v : Byte} {c : Host.Cell} (h : c ∈ Mem.write m a v) :
    c = (a, v) ∨ c ∈ m := by
  induction m with
  | nil => simpa [Mem.write] using h
  | cons d m ih =>
    obtain ⟨k, b⟩ := d
    simp only [Mem.write] at h
    split at h
    · simpa using h
    · split at h
      · rcases List.mem_cons.1 h with h | h
        · exact .inl h
        · exact .inr (List.mem_cons_of_mem _ h)
      · rcases List.mem_cons.1 h with h | h
        · exact .inr (h ▸ List.mem_cons_self)
        · exact (ih h).imp_right (List.mem_cons_of_mem _)

theorem Mem.write_wf {m : Mem} (hm : Mem.wf m) (a : Nat) (v : Byte) : Mem.wf (Mem.write m a v) := by
  induction m with
  | nil => simp [Mem.wf, Mem.write]
  | cons d m ih =>
    obtain ⟨k, b⟩ := d
    obtain ⟨hk, hm'⟩ := List.pairwise_cons.1 hm
    simp only [Mem.write]
    split
    · next h =>
      refine List.pairwise_cons.2 ⟨fun c hc => ?_, hm⟩
      rcases List.mem_cons.1 hc with rfl | hc
      · exact h
      · exact Nat.lt_trans h (hk c hc)
    · split
      · next h =>
        subst h
        exact List.pairwise_cons.2 ⟨hk, hm'⟩
      · refine List.pairwise_cons.2 ⟨fun c hc => ?_, ih hm'⟩
        rcases Mem.mem_write hc with rfl | hc
        · simp only; omega
        · exact hk c hc

theorem Mem.writeBytes_wf {m : Mem} (hm : Mem.wf m) (off : Nat) (v : Word) (k : Nat) :
    Mem.wf (Mem.writeBytes m off v k) := by
  induction k with
  | zero => exact hm
  | succ k ih => exact Mem.write_wf ih _ _

theorem Mem.mem_writeBytes {m : Mem} {off : Nat} {v : Word} {k : Nat} {c : Host.Cell}
    (h : c ∈ Mem.writeBytes m off v k) : (off ≤ c.1 ∧ c.1 < off + k) ∨ c ∈ m := by
  induction k with
  | zero => exact .inr h
  | succ k ih =>
    rcases Mem.mem_write h with rfl | h
    · exact .inl ⟨Nat.le_add_right .., by simp⟩
    · rcases ih h with h | h
      · exact .inl ⟨h.1, by omega⟩
      · exact .inr h

theorem Mem.read?_writeBytes (m : Mem) (off : Nat) (v : Word) (k a : Nat) :
    Mem.read? (Mem.writeBytes m off v k) a =
      if off ≤ a ∧ a < off + k then some (byteOf v (a - off)) else Mem.read? m a := by
  induction k with
  | zero => simp only [Mem.writeBytes]; rw [if_neg (by omega)]
  | succ k ih =>
    simp only [Mem.writeBytes, Mem.read?_write, ih]
    by_cases h : a = off + k
    · subst h; simp
    · simp only [h, if_false]
      congr 1
      simp only [eq_iff_iff]
      omega

theorem Mem.known_iff (m : Mem) (off k : Nat) :
    Mem.known m off k = true ↔ ∀ i < k, (Mem.read? m (off + i)).isSome = true := by
  simp [Mem.known, List.all_eq_true]

/-- A range inside a known range is known. -/
theorem Mem.known_sub {m : Mem} {o n off k : Nat} (h : Mem.known m o n = true) (h1 : o ≤ off) (h2 : off + k ≤ o + n) :
    Mem.known m off k = true := by
  rw [Mem.known_iff] at h ⊢
  intro i hi
  have := h (off + i - o) (by omega)
  rwa [show o + (off + i - o) = off + i by omega] at this

end Sys2Proof.Machine
end

