-- ==== Sys2Proof/Laws/State.lean ====
section
/-! SUPPORT. One lemma per field for each named update of the state, so that no later proof unfolds a record update. -/

namespace Sys2Proof.Machine

variable (s : State)

@[simp] theorem goto_status (p : Phase) : (goto p s).status = s.status := rfl
@[simp] theorem goto_seed (p : Phase) : (goto p s).seed = s.seed := rfl
@[simp] theorem goto_len (p : Phase) : (goto p s).len = s.len := rfl
@[simp] theorem goto_bufsz (p : Phase) : (goto p s).bufsz = s.bufsz := rfl
@[simp] theorem goto_seclen (p : Phase) : (goto p s).seclen = s.seclen := rfl
@[simp] theorem goto_result (p : Phase) : (goto p s).result = s.result := rfl
@[simp] theorem goto_faultinfo (p : Phase) : (goto p s).faultinfo = s.faultinfo := rfl
@[simp] theorem goto_csec (p : Phase) : (goto p s).csec = s.csec := rfl
@[simp] theorem goto_phase (p : Phase) : (goto p s).phase = p := rfl
@[simp] theorem goto_blk (p : Phase) : (goto p s).blk = s.blk := rfl
@[simp] theorem goto_str (p : Phase) : (goto p s).str = s.str := rfl
@[simp] theorem goto_rnd (p : Phase) : (goto p s).rnd = s.rnd := rfl
@[simp] theorem goto_roundsDone (p : Phase) : (goto p s).roundsDone = s.roundsDone := rfl
@[simp] theorem goto_latch (p : Phase) : (goto p s).latch = s.latch := rfl
@[simp] theorem goto_nextClass (p : Phase) : (goto p s).nextClass = s.nextClass := rfl
@[simp] theorem goto_acc (p : Phase) : (goto p s).acc = s.acc := rfl
@[simp] theorem goto_hacc (p : Phase) : (goto p s).hacc = s.hacc := rfl
@[simp] theorem goto_esec (p : Phase) : (goto p s).esec = s.esec := rfl
@[simp] theorem goto_out (p : Phase) : (goto p s).out = s.out := rfl
@[simp] theorem goto_tainted (p : Phase) : (goto p s).tainted = s.tainted := rfl
@[simp] theorem goto_draws (p : Phase) : (goto p s).draws = s.draws := rfl
@[simp] theorem goto_input (p : Phase) : (goto p s).input = s.input := rfl
@[simp] theorem goto_inbox (p : Phase) : (goto p s).inbox = s.inbox := rfl
@[simp] theorem goto_reads (p : Phase) : (goto p s).reads = s.reads := rfl

@[simp] theorem raiseFault_status (c : BitVec 4) (v : Word) : (raiseFault c v s).status = { state := .fault, fcode := c, lclass := lclassNone } := rfl
@[simp] theorem raiseFault_seed (c : BitVec 4) (v : Word) : (raiseFault c v s).seed = s.seed := rfl
@[simp] theorem raiseFault_len (c : BitVec 4) (v : Word) : (raiseFault c v s).len = s.len := rfl
@[simp] theorem raiseFault_bufsz (c : BitVec 4) (v : Word) : (raiseFault c v s).bufsz = s.bufsz := rfl
@[simp] theorem raiseFault_seclen (c : BitVec 4) (v : Word) : (raiseFault c v s).seclen = s.seclen := rfl
@[simp] theorem raiseFault_result (c : BitVec 4) (v : Word) : (raiseFault c v s).result = s.result := rfl
@[simp] theorem raiseFault_faultinfo (c : BitVec 4) (v : Word) : (raiseFault c v s).faultinfo = v := rfl
@[simp] theorem raiseFault_csec (c : BitVec 4) (v : Word) : (raiseFault c v s).csec = s.csec := rfl
@[simp] theorem raiseFault_phase (c : BitVec 4) (v : Word) : (raiseFault c v s).phase = .fault := rfl
@[simp] theorem raiseFault_blk (c : BitVec 4) (v : Word) : (raiseFault c v s).blk = s.blk := rfl
@[simp] theorem raiseFault_str (c : BitVec 4) (v : Word) : (raiseFault c v s).str = s.str := rfl
@[simp] theorem raiseFault_rnd (c : BitVec 4) (v : Word) : (raiseFault c v s).rnd = s.rnd := rfl
@[simp] theorem raiseFault_roundsDone (c : BitVec 4) (v : Word) : (raiseFault c v s).roundsDone = s.roundsDone := rfl
@[simp] theorem raiseFault_latch (c : BitVec 4) (v : Word) : (raiseFault c v s).latch = s.latch := rfl
@[simp] theorem raiseFault_nextClass (c : BitVec 4) (v : Word) : (raiseFault c v s).nextClass = s.nextClass := rfl
@[simp] theorem raiseFault_acc (c : BitVec 4) (v : Word) : (raiseFault c v s).acc = s.acc := rfl
@[simp] theorem raiseFault_hacc (c : BitVec 4) (v : Word) : (raiseFault c v s).hacc = s.hacc := rfl
@[simp] theorem raiseFault_esec (c : BitVec 4) (v : Word) : (raiseFault c v s).esec = s.esec := rfl
@[simp] theorem raiseFault_out (c : BitVec 4) (v : Word) : (raiseFault c v s).out = s.out := rfl
@[simp] theorem raiseFault_tainted (c : BitVec 4) (v : Word) : (raiseFault c v s).tainted = s.tainted := rfl
@[simp] theorem raiseFault_draws (c : BitVec 4) (v : Word) : (raiseFault c v s).draws = s.draws := rfl
@[simp] theorem raiseFault_input (c : BitVec 4) (v : Word) : (raiseFault c v s).input = s.input := rfl
@[simp] theorem raiseFault_inbox (c : BitVec 4) (v : Word) : (raiseFault c v s).inbox = s.inbox := rfl
@[simp] theorem raiseFault_reads (c : BitVec 4) (v : Word) : (raiseFault c v s).reads = s.reads := rfl

@[simp] theorem acknowledge_status : (acknowledge s).status = { state := .idle, fcode := fcodeNone, lclass := lclassNone } := rfl
@[simp] theorem acknowledge_seed : (acknowledge s).seed = s.seed := rfl
@[simp] theorem acknowledge_len : (acknowledge s).len = s.len := rfl
@[simp] theorem acknowledge_bufsz : (acknowledge s).bufsz = s.bufsz := rfl
@[simp] theorem acknowledge_seclen : (acknowledge s).seclen = s.seclen := rfl
@[simp] theorem acknowledge_result : (acknowledge s).result = s.result := rfl
@[simp] theorem acknowledge_faultinfo : (acknowledge s).faultinfo = s.faultinfo := rfl
@[simp] theorem acknowledge_csec : (acknowledge s).csec = s.csec := rfl
@[simp] theorem acknowledge_phase : (acknowledge s).phase = .idle := rfl
@[simp] theorem acknowledge_blk : (acknowledge s).blk = s.blk := rfl
@[simp] theorem acknowledge_str : (acknowledge s).str = s.str := rfl
@[simp] theorem acknowledge_rnd : (acknowledge s).rnd = s.rnd := rfl
@[simp] theorem acknowledge_roundsDone : (acknowledge s).roundsDone = s.roundsDone := rfl
@[simp] theorem acknowledge_latch : (acknowledge s).latch = s.latch := rfl
@[simp] theorem acknowledge_nextClass : (acknowledge s).nextClass = s.nextClass := rfl
@[simp] theorem acknowledge_acc : (acknowledge s).acc = s.acc := rfl
@[simp] theorem acknowledge_hacc : (acknowledge s).hacc = s.hacc := rfl
@[simp] theorem acknowledge_esec : (acknowledge s).esec = s.esec := rfl
@[simp] theorem acknowledge_out : (acknowledge s).out = s.out := rfl
@[simp] theorem acknowledge_tainted : (acknowledge s).tainted = s.tainted := rfl
@[simp] theorem acknowledge_draws : (acknowledge s).draws = s.draws := rfl
@[simp] theorem acknowledge_input : (acknowledge s).input = s.input := rfl
@[simp] theorem acknowledge_inbox : (acknowledge s).inbox = s.inbox := rfl
@[simp] theorem acknowledge_reads : (acknowledge s).reads = s.reads := rfl

@[simp] theorem accept_status (c : HashCommand) : (accept c s).status = { state := .busy, fcode := fcodeNone, lclass := lclassNone } := rfl
@[simp] theorem accept_seed (c : HashCommand) : (accept c s).seed = s.seed := rfl
@[simp] theorem accept_len (c : HashCommand) : (accept c s).len = s.len := rfl
@[simp] theorem accept_bufsz (c : HashCommand) : (accept c s).bufsz = s.bufsz := rfl
@[simp] theorem accept_seclen (c : HashCommand) : (accept c s).seclen = s.seclen := rfl
@[simp] theorem accept_result (c : HashCommand) : (accept c s).result = s.result := rfl
@[simp] theorem accept_faultinfo (c : HashCommand) : (accept c s).faultinfo = s.faultinfo := rfl
@[simp] theorem accept_csec (c : HashCommand) : (accept c s).csec = s.csec := rfl
@[simp] theorem accept_phase (c : HashCommand) : (accept c s).phase = .check := rfl
@[simp] theorem accept_blk (c : HashCommand) : (accept c s).blk = s.blk := rfl
@[simp] theorem accept_str (c : HashCommand) : (accept c s).str = s.str := rfl
@[simp] theorem accept_rnd (c : HashCommand) : (accept c s).rnd = s.rnd := rfl
@[simp] theorem accept_roundsDone (c : HashCommand) : (accept c s).roundsDone = s.roundsDone := rfl
@[simp] theorem accept_latch (c : HashCommand) : (accept c s).latch = { cmd := c, seed := s.seed, len := s.len, bufsz := s.bufsz, seclen := s.seclen } := rfl
@[simp] theorem accept_nextClass (c : HashCommand) : (accept c s).nextClass = s.nextClass := rfl
@[simp] theorem accept_acc (c : HashCommand) : (accept c s).acc = s.acc := rfl
@[simp] theorem accept_hacc (c : HashCommand) : (accept c s).hacc = s.hacc := rfl
@[simp] theorem accept_esec (c : HashCommand) : (accept c s).esec = s.esec := rfl
@[simp] theorem accept_out (c : HashCommand) : (accept c s).out = s.out := rfl
@[simp] theorem accept_tainted (c : HashCommand) : (accept c s).tainted = false := rfl
@[simp] theorem accept_draws (c : HashCommand) : (accept c s).draws = s.draws := rfl
@[simp] theorem accept_input (c : HashCommand) : (accept c s).input = s.input := rfl
@[simp] theorem accept_inbox (c : HashCommand) : (accept c s).inbox = s.inbox := rfl
@[simp] theorem accept_reads (c : HashCommand) : (accept c s).reads = s.reads := rfl

@[simp] theorem complete_status : (complete s).status = { state := .done, fcode := fcodeNone, lclass := s.nextClass } := rfl
@[simp] theorem complete_seed : (complete s).seed = s.seed := rfl
@[simp] theorem complete_len : (complete s).len = s.len := rfl
@[simp] theorem complete_bufsz : (complete s).bufsz = s.bufsz := rfl
@[simp] theorem complete_seclen : (complete s).seclen = s.seclen := rfl
@[simp] theorem complete_result : (complete s).result = if s.tainted then Config.freeWord s.draws else s.out := rfl
@[simp] theorem complete_faultinfo : (complete s).faultinfo = s.faultinfo := rfl
@[simp] theorem complete_csec : (complete s).csec = s.csec := rfl
@[simp] theorem complete_phase : (complete s).phase = .done := rfl
@[simp] theorem complete_blk : (complete s).blk = s.blk := rfl
@[simp] theorem complete_str : (complete s).str = s.str := rfl
@[simp] theorem complete_rnd : (complete s).rnd = s.rnd := rfl
@[simp] theorem complete_roundsDone : (complete s).roundsDone = s.roundsDone := rfl
@[simp] theorem complete_latch : (complete s).latch = s.latch := rfl
@[simp] theorem complete_nextClass : (complete s).nextClass = s.nextClass := rfl
@[simp] theorem complete_acc : (complete s).acc = s.acc := rfl
@[simp] theorem complete_hacc : (complete s).hacc = s.hacc := rfl
@[simp] theorem complete_esec : (complete s).esec = s.esec := rfl
@[simp] theorem complete_out : (complete s).out = s.out := rfl
@[simp] theorem complete_tainted : (complete s).tainted = s.tainted := rfl
@[simp] theorem complete_draws : (complete s).draws = if s.tainted then s.draws + 1 else s.draws := rfl
@[simp] theorem complete_input : (complete s).input = s.input := rfl
@[simp] theorem complete_inbox : (complete s).inbox = s.inbox := rfl
@[simp] theorem complete_reads : (complete s).reads = s.reads := rfl

@[simp] theorem countRound_status : (countRound s).status = s.status := rfl
@[simp] theorem countRound_seed : (countRound s).seed = s.seed := rfl
@[simp] theorem countRound_len : (countRound s).len = s.len := rfl
@[simp] theorem countRound_bufsz : (countRound s).bufsz = s.bufsz := rfl
@[simp] theorem countRound_seclen : (countRound s).seclen = s.seclen := rfl
@[simp] theorem countRound_result : (countRound s).result = s.result := rfl
@[simp] theorem countRound_faultinfo : (countRound s).faultinfo = s.faultinfo := rfl
@[simp] theorem countRound_csec : (countRound s).csec = s.csec := rfl
@[simp] theorem countRound_phase : (countRound s).phase = s.phase := rfl
@[simp] theorem countRound_blk : (countRound s).blk = s.blk := rfl
@[simp] theorem countRound_str : (countRound s).str = s.str := rfl
@[simp] theorem countRound_rnd : (countRound s).rnd = s.rnd + 1 := rfl
@[simp] theorem countRound_roundsDone : (countRound s).roundsDone = decide (s.rnd.toNat + 1 = midRounds s.latch.len) := rfl
@[simp] theorem countRound_latch : (countRound s).latch = s.latch := rfl
@[simp] theorem countRound_nextClass : (countRound s).nextClass = s.nextClass := rfl
@[simp] theorem countRound_acc : (countRound s).acc = s.acc := rfl
@[simp] theorem countRound_hacc : (countRound s).hacc = s.hacc := rfl
@[simp] theorem countRound_esec : (countRound s).esec = s.esec := rfl
@[simp] theorem countRound_out : (countRound s).out = s.out := rfl
@[simp] theorem countRound_tainted : (countRound s).tainted = s.tainted := rfl
@[simp] theorem countRound_draws : (countRound s).draws = s.draws := rfl
@[simp] theorem countRound_input : (countRound s).input = s.input := rfl
@[simp] theorem countRound_inbox : (countRound s).inbox = s.inbox := rfl
@[simp] theorem countRound_reads : (countRound s).reads = s.reads := rfl

@[simp] theorem resetEngine_status : (resetEngine s).status = State.reset.status := rfl
@[simp] theorem resetEngine_seed : (resetEngine s).seed = State.reset.seed := rfl
@[simp] theorem resetEngine_len : (resetEngine s).len = State.reset.len := rfl
@[simp] theorem resetEngine_bufsz : (resetEngine s).bufsz = State.reset.bufsz := rfl
@[simp] theorem resetEngine_seclen : (resetEngine s).seclen = State.reset.seclen := rfl
@[simp] theorem resetEngine_result : (resetEngine s).result = State.reset.result := rfl
@[simp] theorem resetEngine_faultinfo : (resetEngine s).faultinfo = State.reset.faultinfo := rfl
@[simp] theorem resetEngine_csec : (resetEngine s).csec = State.reset.csec := rfl
@[simp] theorem resetEngine_phase : (resetEngine s).phase = State.reset.phase := rfl
@[simp] theorem resetEngine_blk : (resetEngine s).blk = State.reset.blk := rfl
@[simp] theorem resetEngine_str : (resetEngine s).str = State.reset.str := rfl
@[simp] theorem resetEngine_rnd : (resetEngine s).rnd = State.reset.rnd := rfl
@[simp] theorem resetEngine_roundsDone : (resetEngine s).roundsDone = State.reset.roundsDone := rfl
@[simp] theorem resetEngine_latch : (resetEngine s).latch = State.reset.latch := rfl
@[simp] theorem resetEngine_nextClass : (resetEngine s).nextClass = State.reset.nextClass := rfl
@[simp] theorem resetEngine_acc : (resetEngine s).acc = State.reset.acc := rfl
@[simp] theorem resetEngine_hacc : (resetEngine s).hacc = State.reset.hacc := rfl
@[simp] theorem resetEngine_esec : (resetEngine s).esec = State.reset.esec := rfl
@[simp] theorem resetEngine_out : (resetEngine s).out = State.reset.out := rfl
@[simp] theorem resetEngine_tainted : (resetEngine s).tainted = State.reset.tainted := rfl
@[simp] theorem resetEngine_draws : (resetEngine s).draws = s.draws := rfl
@[simp] theorem resetEngine_input : (resetEngine s).input = s.input := rfl
@[simp] theorem resetEngine_inbox : (resetEngine s).inbox = s.inbox := rfl
@[simp] theorem resetEngine_reads : (resetEngine s).reads = s.reads := rfl

@[simp] theorem mark_status (b : Bool) : (mark b s).status = s.status := rfl
@[simp] theorem mark_seed (b : Bool) : (mark b s).seed = s.seed := rfl
@[simp] theorem mark_len (b : Bool) : (mark b s).len = s.len := rfl
@[simp] theorem mark_bufsz (b : Bool) : (mark b s).bufsz = s.bufsz := rfl
@[simp] theorem mark_seclen (b : Bool) : (mark b s).seclen = s.seclen := rfl
@[simp] theorem mark_result (b : Bool) : (mark b s).result = s.result := rfl
@[simp] theorem mark_faultinfo (b : Bool) : (mark b s).faultinfo = s.faultinfo := rfl
@[simp] theorem mark_csec (b : Bool) : (mark b s).csec = s.csec := rfl
@[simp] theorem mark_phase (b : Bool) : (mark b s).phase = s.phase := rfl
@[simp] theorem mark_blk (b : Bool) : (mark b s).blk = s.blk := rfl
@[simp] theorem mark_str (b : Bool) : (mark b s).str = s.str := rfl
@[simp] theorem mark_rnd (b : Bool) : (mark b s).rnd = s.rnd := rfl
@[simp] theorem mark_roundsDone (b : Bool) : (mark b s).roundsDone = s.roundsDone := rfl
@[simp] theorem mark_latch (b : Bool) : (mark b s).latch = s.latch := rfl
@[simp] theorem mark_nextClass (b : Bool) : (mark b s).nextClass = s.nextClass := rfl
@[simp] theorem mark_acc (b : Bool) : (mark b s).acc = s.acc := rfl
@[simp] theorem mark_hacc (b : Bool) : (mark b s).hacc = s.hacc := rfl
@[simp] theorem mark_esec (b : Bool) : (mark b s).esec = s.esec := rfl
@[simp] theorem mark_out (b : Bool) : (mark b s).out = s.out := rfl
@[simp] theorem mark_tainted (b : Bool) : (mark b s).tainted = (s.tainted || b) := rfl
@[simp] theorem mark_draws (b : Bool) : (mark b s).draws = s.draws := rfl
@[simp] theorem mark_input (b : Bool) : (mark b s).input = s.input := rfl
@[simp] theorem mark_inbox (b : Bool) : (mark b s).inbox = s.inbox := rfl
@[simp] theorem mark_reads (b : Bool) : (mark b s).reads = s.reads := rfl

@[simp] theorem setOut_status (v : Word) : (setOut v s).status = s.status := rfl
@[simp] theorem setOut_seed (v : Word) : (setOut v s).seed = s.seed := rfl
@[simp] theorem setOut_len (v : Word) : (setOut v s).len = s.len := rfl
@[simp] theorem setOut_bufsz (v : Word) : (setOut v s).bufsz = s.bufsz := rfl
@[simp] theorem setOut_seclen (v : Word) : (setOut v s).seclen = s.seclen := rfl
@[simp] theorem setOut_result (v : Word) : (setOut v s).result = s.result := rfl
@[simp] theorem setOut_faultinfo (v : Word) : (setOut v s).faultinfo = s.faultinfo := rfl
@[simp] theorem setOut_csec (v : Word) : (setOut v s).csec = s.csec := rfl
@[simp] theorem setOut_phase (v : Word) : (setOut v s).phase = s.phase := rfl
@[simp] theorem setOut_blk (v : Word) : (setOut v s).blk = s.blk := rfl
@[simp] theorem setOut_str (v : Word) : (setOut v s).str = s.str := rfl
@[simp] theorem setOut_rnd (v : Word) : (setOut v s).rnd = s.rnd := rfl
@[simp] theorem setOut_roundsDone (v : Word) : (setOut v s).roundsDone = s.roundsDone := rfl
@[simp] theorem setOut_latch (v : Word) : (setOut v s).latch = s.latch := rfl
@[simp] theorem setOut_nextClass (v : Word) : (setOut v s).nextClass = s.nextClass := rfl
@[simp] theorem setOut_acc (v : Word) : (setOut v s).acc = s.acc := rfl
@[simp] theorem setOut_hacc (v : Word) : (setOut v s).hacc = s.hacc := rfl
@[simp] theorem setOut_esec (v : Word) : (setOut v s).esec = s.esec := rfl
@[simp] theorem setOut_out (v : Word) : (setOut v s).out = v := rfl
@[simp] theorem setOut_tainted (v : Word) : (setOut v s).tainted = s.tainted := rfl
@[simp] theorem setOut_draws (v : Word) : (setOut v s).draws = s.draws := rfl
@[simp] theorem setOut_input (v : Word) : (setOut v s).input = s.input := rfl
@[simp] theorem setOut_inbox (v : Word) : (setOut v s).inbox = s.inbox := rfl
@[simp] theorem setOut_reads (v : Word) : (setOut v s).reads = s.reads := rfl

@[simp] theorem setAcc_status (v : Vector Word 8) : (setAcc v s).status = s.status := rfl
@[simp] theorem setAcc_seed (v : Vector Word 8) : (setAcc v s).seed = s.seed := rfl
@[simp] theorem setAcc_len (v : Vector Word 8) : (setAcc v s).len = s.len := rfl
@[simp] theorem setAcc_bufsz (v : Vector Word 8) : (setAcc v s).bufsz = s.bufsz := rfl
@[simp] theorem setAcc_seclen (v : Vector Word 8) : (setAcc v s).seclen = s.seclen := rfl
@[simp] theorem setAcc_result (v : Vector Word 8) : (setAcc v s).result = s.result := rfl
@[simp] theorem setAcc_faultinfo (v : Vector Word 8) : (setAcc v s).faultinfo = s.faultinfo := rfl
@[simp] theorem setAcc_csec (v : Vector Word 8) : (setAcc v s).csec = s.csec := rfl
@[simp] theorem setAcc_phase (v : Vector Word 8) : (setAcc v s).phase = s.phase := rfl
@[simp] theorem setAcc_blk (v : Vector Word 8) : (setAcc v s).blk = s.blk := rfl
@[simp] theorem setAcc_str (v : Vector Word 8) : (setAcc v s).str = s.str := rfl
@[simp] theorem setAcc_rnd (v : Vector Word 8) : (setAcc v s).rnd = s.rnd := rfl
@[simp] theorem setAcc_roundsDone (v : Vector Word 8) : (setAcc v s).roundsDone = s.roundsDone := rfl
@[simp] theorem setAcc_latch (v : Vector Word 8) : (setAcc v s).latch = s.latch := rfl
@[simp] theorem setAcc_nextClass (v : Vector Word 8) : (setAcc v s).nextClass = s.nextClass := rfl
@[simp] theorem setAcc_acc (v : Vector Word 8) : (setAcc v s).acc = v := rfl
@[simp] theorem setAcc_hacc (v : Vector Word 8) : (setAcc v s).hacc = s.hacc := rfl
@[simp] theorem setAcc_esec (v : Vector Word 8) : (setAcc v s).esec = s.esec := rfl
@[simp] theorem setAcc_out (v : Vector Word 8) : (setAcc v s).out = s.out := rfl
@[simp] theorem setAcc_tainted (v : Vector Word 8) : (setAcc v s).tainted = s.tainted := rfl
@[simp] theorem setAcc_draws (v : Vector Word 8) : (setAcc v s).draws = s.draws := rfl
@[simp] theorem setAcc_input (v : Vector Word 8) : (setAcc v s).input = s.input := rfl
@[simp] theorem setAcc_inbox (v : Vector Word 8) : (setAcc v s).inbox = s.inbox := rfl
@[simp] theorem setAcc_reads (v : Vector Word 8) : (setAcc v s).reads = s.reads := rfl

@[simp] theorem setHacc_status (v : Word) : (setHacc v s).status = s.status := rfl
@[simp] theorem setHacc_seed (v : Word) : (setHacc v s).seed = s.seed := rfl
@[simp] theorem setHacc_len (v : Word) : (setHacc v s).len = s.len := rfl
@[simp] theorem setHacc_bufsz (v : Word) : (setHacc v s).bufsz = s.bufsz := rfl
@[simp] theorem setHacc_seclen (v : Word) : (setHacc v s).seclen = s.seclen := rfl
@[simp] theorem setHacc_result (v : Word) : (setHacc v s).result = s.result := rfl
@[simp] theorem setHacc_faultinfo (v : Word) : (setHacc v s).faultinfo = s.faultinfo := rfl
@[simp] theorem setHacc_csec (v : Word) : (setHacc v s).csec = s.csec := rfl
@[simp] theorem setHacc_phase (v : Word) : (setHacc v s).phase = s.phase := rfl
@[simp] theorem setHacc_blk (v : Word) : (setHacc v s).blk = s.blk := rfl
@[simp] theorem setHacc_str (v : Word) : (setHacc v s).str = s.str := rfl
@[simp] theorem setHacc_rnd (v : Word) : (setHacc v s).rnd = s.rnd := rfl
@[simp] theorem setHacc_roundsDone (v : Word) : (setHacc v s).roundsDone = s.roundsDone := rfl
@[simp] theorem setHacc_latch (v : Word) : (setHacc v s).latch = s.latch := rfl
@[simp] theorem setHacc_nextClass (v : Word) : (setHacc v s).nextClass = s.nextClass := rfl
@[simp] theorem setHacc_acc (v : Word) : (setHacc v s).acc = s.acc := rfl
@[simp] theorem setHacc_hacc (v : Word) : (setHacc v s).hacc = v := rfl
@[simp] theorem setHacc_esec (v : Word) : (setHacc v s).esec = s.esec := rfl
@[simp] theorem setHacc_out (v : Word) : (setHacc v s).out = s.out := rfl
@[simp] theorem setHacc_tainted (v : Word) : (setHacc v s).tainted = s.tainted := rfl
@[simp] theorem setHacc_draws (v : Word) : (setHacc v s).draws = s.draws := rfl
@[simp] theorem setHacc_input (v : Word) : (setHacc v s).input = s.input := rfl
@[simp] theorem setHacc_inbox (v : Word) : (setHacc v s).inbox = s.inbox := rfl
@[simp] theorem setHacc_reads (v : Word) : (setHacc v s).reads = s.reads := rfl

@[simp] theorem startRounds_status : (startRounds s).status = s.status := rfl
@[simp] theorem startRounds_seed : (startRounds s).seed = s.seed := rfl
@[simp] theorem startRounds_len : (startRounds s).len = s.len := rfl
@[simp] theorem startRounds_bufsz : (startRounds s).bufsz = s.bufsz := rfl
@[simp] theorem startRounds_seclen : (startRounds s).seclen = s.seclen := rfl
@[simp] theorem startRounds_result : (startRounds s).result = s.result := rfl
@[simp] theorem startRounds_faultinfo : (startRounds s).faultinfo = s.faultinfo := rfl
@[simp] theorem startRounds_csec : (startRounds s).csec = s.csec := rfl
@[simp] theorem startRounds_phase : (startRounds s).phase = s.phase := rfl
@[simp] theorem startRounds_blk : (startRounds s).blk = s.blk := rfl
@[simp] theorem startRounds_str : (startRounds s).str = s.str := rfl
@[simp] theorem startRounds_rnd : (startRounds s).rnd = 0 := rfl
@[simp] theorem startRounds_roundsDone : (startRounds s).roundsDone = false := rfl
@[simp] theorem startRounds_latch : (startRounds s).latch = s.latch := rfl
@[simp] theorem startRounds_nextClass : (startRounds s).nextClass = s.nextClass := rfl
@[simp] theorem startRounds_acc : (startRounds s).acc = s.acc := rfl
@[simp] theorem startRounds_hacc : (startRounds s).hacc = s.latch.len * Config.engine.prime64_1 := rfl
@[simp] theorem startRounds_esec : (startRounds s).esec = s.esec := rfl
@[simp] theorem startRounds_out : (startRounds s).out = s.out := rfl
@[simp] theorem startRounds_tainted : (startRounds s).tainted = s.tainted := rfl
@[simp] theorem startRounds_draws : (startRounds s).draws = s.draws := rfl
@[simp] theorem startRounds_input : (startRounds s).input = s.input := rfl
@[simp] theorem startRounds_inbox : (startRounds s).inbox = s.inbox := rfl
@[simp] theorem startRounds_reads : (startRounds s).reads = s.reads := rfl

@[simp] theorem setBlock_status (b : Word) (k : BitVec 5) : (setBlock b k s).status = s.status := rfl
@[simp] theorem setBlock_seed (b : Word) (k : BitVec 5) : (setBlock b k s).seed = s.seed := rfl
@[simp] theorem setBlock_len (b : Word) (k : BitVec 5) : (setBlock b k s).len = s.len := rfl
@[simp] theorem setBlock_bufsz (b : Word) (k : BitVec 5) : (setBlock b k s).bufsz = s.bufsz := rfl
@[simp] theorem setBlock_seclen (b : Word) (k : BitVec 5) : (setBlock b k s).seclen = s.seclen := rfl
@[simp] theorem setBlock_result (b : Word) (k : BitVec 5) : (setBlock b k s).result = s.result := rfl
@[simp] theorem setBlock_faultinfo (b : Word) (k : BitVec 5) : (setBlock b k s).faultinfo = s.faultinfo := rfl
@[simp] theorem setBlock_csec (b : Word) (k : BitVec 5) : (setBlock b k s).csec = s.csec := rfl
@[simp] theorem setBlock_phase (b : Word) (k : BitVec 5) : (setBlock b k s).phase = s.phase := rfl
@[simp] theorem setBlock_blk (b : Word) (k : BitVec 5) : (setBlock b k s).blk = b := rfl
@[simp] theorem setBlock_str (b : Word) (k : BitVec 5) : (setBlock b k s).str = k := rfl
@[simp] theorem setBlock_rnd (b : Word) (k : BitVec 5) : (setBlock b k s).rnd = s.rnd := rfl
@[simp] theorem setBlock_roundsDone (b : Word) (k : BitVec 5) : (setBlock b k s).roundsDone = s.roundsDone := rfl
@[simp] theorem setBlock_latch (b : Word) (k : BitVec 5) : (setBlock b k s).latch = s.latch := rfl
@[simp] theorem setBlock_nextClass (b : Word) (k : BitVec 5) : (setBlock b k s).nextClass = s.nextClass := rfl
@[simp] theorem setBlock_acc (b : Word) (k : BitVec 5) : (setBlock b k s).acc = s.acc := rfl
@[simp] theorem setBlock_hacc (b : Word) (k : BitVec 5) : (setBlock b k s).hacc = s.hacc := rfl
@[simp] theorem setBlock_esec (b : Word) (k : BitVec 5) : (setBlock b k s).esec = s.esec := rfl
@[simp] theorem setBlock_out (b : Word) (k : BitVec 5) : (setBlock b k s).out = s.out := rfl
@[simp] theorem setBlock_tainted (b : Word) (k : BitVec 5) : (setBlock b k s).tainted = s.tainted := rfl
@[simp] theorem setBlock_draws (b : Word) (k : BitVec 5) : (setBlock b k s).draws = s.draws := rfl
@[simp] theorem setBlock_input (b : Word) (k : BitVec 5) : (setBlock b k s).input = s.input := rfl
@[simp] theorem setBlock_inbox (b : Word) (k : BitVec 5) : (setBlock b k s).inbox = s.inbox := rfl
@[simp] theorem setBlock_reads (b : Word) (k : BitVec 5) : (setBlock b k s).reads = s.reads := rfl
@[simp] theorem setRnd_status (r : BitVec 4) : (setRnd r s).status = s.status := rfl
@[simp] theorem setRnd_seed (r : BitVec 4) : (setRnd r s).seed = s.seed := rfl
@[simp] theorem setRnd_len (r : BitVec 4) : (setRnd r s).len = s.len := rfl
@[simp] theorem setRnd_bufsz (r : BitVec 4) : (setRnd r s).bufsz = s.bufsz := rfl
@[simp] theorem setRnd_seclen (r : BitVec 4) : (setRnd r s).seclen = s.seclen := rfl
@[simp] theorem setRnd_result (r : BitVec 4) : (setRnd r s).result = s.result := rfl
@[simp] theorem setRnd_faultinfo (r : BitVec 4) : (setRnd r s).faultinfo = s.faultinfo := rfl
@[simp] theorem setRnd_csec (r : BitVec 4) : (setRnd r s).csec = s.csec := rfl
@[simp] theorem setRnd_phase (r : BitVec 4) : (setRnd r s).phase = s.phase := rfl
@[simp] theorem setRnd_blk (r : BitVec 4) : (setRnd r s).blk = s.blk := rfl
@[simp] theorem setRnd_str (r : BitVec 4) : (setRnd r s).str = s.str := rfl
@[simp] theorem setRnd_rnd (r : BitVec 4) : (setRnd r s).rnd = r := rfl
@[simp] theorem setRnd_roundsDone (r : BitVec 4) : (setRnd r s).roundsDone = s.roundsDone := rfl
@[simp] theorem setRnd_latch (r : BitVec 4) : (setRnd r s).latch = s.latch := rfl
@[simp] theorem setRnd_nextClass (r : BitVec 4) : (setRnd r s).nextClass = s.nextClass := rfl
@[simp] theorem setRnd_acc (r : BitVec 4) : (setRnd r s).acc = s.acc := rfl
@[simp] theorem setRnd_hacc (r : BitVec 4) : (setRnd r s).hacc = s.hacc := rfl
@[simp] theorem setRnd_esec (r : BitVec 4) : (setRnd r s).esec = s.esec := rfl
@[simp] theorem setRnd_out (r : BitVec 4) : (setRnd r s).out = s.out := rfl
@[simp] theorem setRnd_tainted (r : BitVec 4) : (setRnd r s).tainted = s.tainted := rfl
@[simp] theorem setRnd_draws (r : BitVec 4) : (setRnd r s).draws = s.draws := rfl
@[simp] theorem setRnd_input (r : BitVec 4) : (setRnd r s).input = s.input := rfl
@[simp] theorem setRnd_inbox (r : BitVec 4) : (setRnd r s).inbox = s.inbox := rfl
@[simp] theorem setRnd_reads (r : BitVec 4) : (setRnd r s).reads = s.reads := rfl

@[simp] theorem mark_false : mark false s = s := by simp [mark]

theorem mark_mark (a b : Bool) : mark a (mark b s) = mark (b || a) s := by simp [mark, Bool.or_assoc]

/-! ### Host stores to `IN` and reads of it -/

@[simp] theorem hostStore_status (off : Word) (b : Byte) : (hostStore off b s).status = s.status := rfl
@[simp] theorem hostStore_seed (off : Word) (b : Byte) : (hostStore off b s).seed = s.seed := rfl
@[simp] theorem hostStore_len (off : Word) (b : Byte) : (hostStore off b s).len = s.len := rfl
@[simp] theorem hostStore_bufsz (off : Word) (b : Byte) : (hostStore off b s).bufsz = s.bufsz := rfl
@[simp] theorem hostStore_seclen (off : Word) (b : Byte) : (hostStore off b s).seclen = s.seclen := rfl
@[simp] theorem hostStore_result (off : Word) (b : Byte) : (hostStore off b s).result = s.result := rfl
@[simp] theorem hostStore_faultinfo (off : Word) (b : Byte) : (hostStore off b s).faultinfo = s.faultinfo := rfl
@[simp] theorem hostStore_csec (off : Word) (b : Byte) : (hostStore off b s).csec = s.csec := rfl
@[simp] theorem hostStore_phase (off : Word) (b : Byte) : (hostStore off b s).phase = s.phase := rfl
@[simp] theorem hostStore_blk (off : Word) (b : Byte) : (hostStore off b s).blk = s.blk := rfl
@[simp] theorem hostStore_str (off : Word) (b : Byte) : (hostStore off b s).str = s.str := rfl
@[simp] theorem hostStore_rnd (off : Word) (b : Byte) : (hostStore off b s).rnd = s.rnd := rfl
@[simp] theorem hostStore_roundsDone (off : Word) (b : Byte) : (hostStore off b s).roundsDone = s.roundsDone := rfl
@[simp] theorem hostStore_latch (off : Word) (b : Byte) : (hostStore off b s).latch = s.latch := rfl
@[simp] theorem hostStore_nextClass (off : Word) (b : Byte) : (hostStore off b s).nextClass = s.nextClass := rfl
@[simp] theorem hostStore_acc (off : Word) (b : Byte) : (hostStore off b s).acc = s.acc := rfl
@[simp] theorem hostStore_hacc (off : Word) (b : Byte) : (hostStore off b s).hacc = s.hacc := rfl
@[simp] theorem hostStore_esec (off : Word) (b : Byte) : (hostStore off b s).esec = s.esec := rfl
@[simp] theorem hostStore_out (off : Word) (b : Byte) : (hostStore off b s).out = s.out := rfl
@[simp] theorem hostStore_tainted (off : Word) (b : Byte) : (hostStore off b s).tainted = (s.tainted || (decide (s.status.state = .busy) && decide (off.toNat < s.latch.len.toNat))) := rfl
@[simp] theorem hostStore_draws (off : Word) (b : Byte) : (hostStore off b s).draws = s.draws := rfl
@[simp] theorem hostStore_input (off : Word) (b : Byte) : (hostStore off b s).input = Mem.write s.input off.toNat b := rfl
@[simp] theorem hostStore_inbox (off : Word) (b : Byte) : (hostStore off b s).inbox = s.inbox := rfl
@[simp] theorem hostStore_reads (off : Word) (b : Byte) : (hostStore off b s).reads = s.reads := rfl

@[simp] theorem hostLoad_status (off : Word) : (hostLoad off s).status = s.status := rfl
@[simp] theorem hostLoad_seed (off : Word) : (hostLoad off s).seed = s.seed := rfl
@[simp] theorem hostLoad_len (off : Word) : (hostLoad off s).len = s.len := rfl
@[simp] theorem hostLoad_bufsz (off : Word) : (hostLoad off s).bufsz = s.bufsz := rfl
@[simp] theorem hostLoad_seclen (off : Word) : (hostLoad off s).seclen = s.seclen := rfl
@[simp] theorem hostLoad_result (off : Word) : (hostLoad off s).result = s.result := rfl
@[simp] theorem hostLoad_faultinfo (off : Word) : (hostLoad off s).faultinfo = s.faultinfo := rfl
@[simp] theorem hostLoad_csec (off : Word) : (hostLoad off s).csec = s.csec := rfl
@[simp] theorem hostLoad_phase (off : Word) : (hostLoad off s).phase = s.phase := rfl
@[simp] theorem hostLoad_blk (off : Word) : (hostLoad off s).blk = s.blk := rfl
@[simp] theorem hostLoad_str (off : Word) : (hostLoad off s).str = s.str := rfl
@[simp] theorem hostLoad_rnd (off : Word) : (hostLoad off s).rnd = s.rnd := rfl
@[simp] theorem hostLoad_roundsDone (off : Word) : (hostLoad off s).roundsDone = s.roundsDone := rfl
@[simp] theorem hostLoad_latch (off : Word) : (hostLoad off s).latch = s.latch := rfl
@[simp] theorem hostLoad_nextClass (off : Word) : (hostLoad off s).nextClass = s.nextClass := rfl
@[simp] theorem hostLoad_acc (off : Word) : (hostLoad off s).acc = s.acc := rfl
@[simp] theorem hostLoad_hacc (off : Word) : (hostLoad off s).hacc = s.hacc := rfl
@[simp] theorem hostLoad_esec (off : Word) : (hostLoad off s).esec = s.esec := rfl
@[simp] theorem hostLoad_out (off : Word) : (hostLoad off s).out = s.out := rfl
@[simp] theorem hostLoad_tainted (off : Word) : (hostLoad off s).tainted = s.tainted := rfl
@[simp] theorem hostLoad_draws (off : Word) : (hostLoad off s).draws = (if Mem.known s.input off.toNat 1 then s.draws else s.draws + 1) := rfl
@[simp] theorem hostLoad_input (off : Word) : (hostLoad off s).input = s.input := rfl
@[simp] theorem hostLoad_inbox (off : Word) : (hostLoad off s).inbox = s.inbox := rfl
@[simp] theorem hostLoad_reads (off : Word) : (hostLoad off s).reads = .input off (s.inputBytes off.toNat) :: s.reads := rfl

end Sys2Proof.Machine
end

