-- ==== Sys2Proof/Laws/Ops.lean ====
section
/-! SUPPORT. One lemma per shared operation that says once everything it can do. -/

namespace Sys2Proof.Machine

@[simp] theorem andThen_next (s : State) (f : State → Result) : andThen (.next s) f = f s := rfl
@[simp] theorem andThen_fault (r : Fault) (f : State → Result) : andThen (.fault r) f = .fault r := rfl
@[simp] theorem andThen_refused (r : Refusal) (f : State → Result) : andThen (.refused r) f = .refused r := rfl

/-- A chain that answers a next state answered one at its first link. -/
theorem andThen_eq_next {o : Result} {f : State → Result} {t : State} (h : andThen o f = .next t) :
    ∃ s, o = .next s ∧ f s = .next t := by
  cases o with
  | next s => exact ⟨s, rfl, h⟩
  | fault r => cases h
  | refused r => cases h

theorem andThen_assoc (o : Result) (f g : State → Result) :
    andThen (andThen o f) g = andThen o fun s => andThen (f s) g := by
  cases o <;> rfl

theorem readInput_within {off k : Nat} {s : State} (h : off + k ≤ s.latch.len.toNat) :
    readInput off k s = .next (mark (!Mem.known s.input off k) s) := if_pos h

theorem readInput_outside {off k : Nat} {s : State} (h : ¬ off + k ≤ s.latch.len.toNat) :
    readInput off k s = .fault (.inputOverread off) := if_neg h

theorem readInput_of_known {off k : Nat} {s : State} (h : off + k ≤ s.latch.len.toNat)
    (hk : Mem.known s.input off k = true) : readInput off k s = .next s := by
  simp [readInput_within h, hk]

theorem readSecret_within {S : SecretOperand} {off k : Nat} {s : State} (hS : S.wf = true) (h : off + k ≤ S.size) :
    readSecret S off k s = .next (mark (!s.secretKnown S off k) s) := if_pos ⟨hS, h⟩

theorem readSecret_outside {S : SecretOperand} {off k : Nat} {s : State} (h : ¬ (S.wf = true ∧ off + k ≤ S.size)) :
    readSecret S off k s = .fault (.secretOverread off) := if_neg h

theorem readSecret_of_known {S : SecretOperand} {off k : Nat} {s : State} (hS : S.wf = true) (h : off + k ≤ S.size)
    (hk : s.secretKnown S off k = true) : readSecret S off k s = .next s := by
  simp [readSecret_within hS h, hk]

/-- A list of reads within `LEN` changes at most the mark that `RESULT` is unspecified. -/
theorem readInputs_within {l : List (Nat × Nat)} {s : State} (h : ∀ r ∈ l, r.1 + r.2 ≤ s.latch.len.toNat) :
    readInputs l s = .next (mark (!l.all fun r => Mem.known s.input r.1 r.2) s) := by
  induction l generalizing s with
  | nil => simp [readInputs]
  | cons r l ih =>
    obtain ⟨off, k⟩ := r
    rw [readInputs, readInput_within (h (off, k) List.mem_cons_self), andThen_next,
      ih (by simpa using fun r hr => h r (List.mem_cons_of_mem _ hr)), mark_mark]
    simp

theorem readInputs_of_known {l : List (Nat × Nat)} {s : State}
    (h : ∀ r ∈ l, r.1 + r.2 ≤ s.latch.len.toNat ∧ Mem.known s.input r.1 r.2 = true) :
    readInputs l s = .next s := by
  rw [readInputs_within fun r hr => (h r hr).1]
  have : (l.all fun r => Mem.known s.input r.1 r.2) = true := List.all_eq_true.2 fun r hr => (h r hr).2
  simp [this]

/-- A list of reads within a secret operand changes at most the mark that `RESULT` is unspecified. -/
theorem readSecrets_within {S : SecretOperand} {l : List (Nat × Nat)} {s : State} (hS : S.wf = true)
    (h : ∀ r ∈ l, r.1 + r.2 ≤ S.size) :
    readSecrets S l s = .next (mark (!l.all fun r => s.secretKnown S r.1 r.2) s) := by
  induction l generalizing s with
  | nil => simp [readSecrets]
  | cons r l ih =>
    obtain ⟨off, k⟩ := r
    rw [readSecrets, readSecret_within hS (h (off, k) List.mem_cons_self), andThen_next,
      ih (fun r hr => h r (List.mem_cons_of_mem _ hr)), mark_mark]
    cases S <;> simp [State.secretKnown]

theorem readSecrets_of_known {S : SecretOperand} {l : List (Nat × Nat)} {s : State} (hS : S.wf = true)
    (h : ∀ r ∈ l, r.1 + r.2 ≤ S.size ∧ s.secretKnown S r.1 r.2 = true) : readSecrets S l s = .next s := by
  rw [readSecrets_within hS fun r hr => (h r hr).1]
  have : (l.all fun r => s.secretKnown S r.1 r.2) = true := List.all_eq_true.2 fun r hr => (h r hr).2
  simp [this]

theorem secretKnown_sub {s : State} {S : SecretOperand} {n off k : Nat} (h : s.secretKnown S 0 n = true)
    (h2 : off + k ≤ n) : s.secretKnown S off k = true := by
  cases S with
  | ksec => rfl
  | esec => rfl
  | csec z => exact Mem.known_sub h (Nat.zero_le _) (by omega)

theorem requireClass_of_has {c : LenClass} {n : Word} {s : State} (h : c.has n = true) :
    requireClass c n s = .next s := if_pos h

theorem requireClass_outside {c : LenClass} {n : Word} {s : State} (h : c.has n = false) :
    requireClass c n s = .fault .operandRange := if_neg (by simp [h])

/-- The size of a secret operand that some strategy may read. -/
theorem SecretOperand.size_of_wf {S : SecretOperand} (h : S.wf = true) : 136 ≤ S.size ∧ S.size ≤ 192 := by
  cases S with
  | ksec => simp [SecretOperand.size]
  | esec => simp [SecretOperand.size]
  | csec z => simpa [SecretOperand.wf, SecretOperand.size] using h

end Sys2Proof.Machine
end

