-- ==== Sys2Proof/Laws/Exec.lean ====
section
/-! SUPPORT. What each internal operation does when its reads are in bounds, and what the setters leave to read. -/

namespace Sys2Proof.Machine

section
variable (s : State) (b : Bool) (v : Word) (a : Vector Word 8) (p : Phase) (S : SecretOperand) (i j : Nat)

@[simp] theorem mark_inputBytes : (mark b s).inputBytes = s.inputBytes := rfl
@[simp] theorem mark_secretBytes : (mark b s).secretBytes S = s.secretBytes S := by cases S <;> rfl
@[simp] theorem mark_secretKnown : (mark b s).secretKnown S i j = s.secretKnown S i j := by cases S <;> rfl
@[simp] theorem mark_secretOperand : (mark b s).secretOperand = s.secretOperand := rfl
@[simp] theorem mark_seedOperand : (mark b s).seedOperand = s.seedOperand := rfl
@[simp] theorem setOut_inputBytes : (setOut v s).inputBytes = s.inputBytes := rfl
@[simp] theorem setOut_secretBytes : (setOut v s).secretBytes S = s.secretBytes S := by cases S <;> rfl
@[simp] theorem setOut_secretKnown : (setOut v s).secretKnown S i j = s.secretKnown S i j := by cases S <;> rfl
@[simp] theorem setOut_secretOperand : (setOut v s).secretOperand = s.secretOperand := rfl
@[simp] theorem setOut_seedOperand : (setOut v s).seedOperand = s.seedOperand := rfl
@[simp] theorem setAcc_inputBytes : (setAcc a s).inputBytes = s.inputBytes := rfl
@[simp] theorem setAcc_secretBytes : (setAcc a s).secretBytes S = s.secretBytes S := by cases S <;> rfl
@[simp] theorem setAcc_secretKnown : (setAcc a s).secretKnown S i j = s.secretKnown S i j := by cases S <;> rfl
@[simp] theorem setAcc_secretOperand : (setAcc a s).secretOperand = s.secretOperand := rfl
@[simp] theorem setAcc_seedOperand : (setAcc a s).seedOperand = s.seedOperand := rfl
@[simp] theorem setHacc_inputBytes : (setHacc v s).inputBytes = s.inputBytes := rfl
@[simp] theorem setHacc_secretBytes : (setHacc v s).secretBytes S = s.secretBytes S := by cases S <;> rfl
@[simp] theorem setHacc_secretOperand : (setHacc v s).secretOperand = s.secretOperand := rfl
@[simp] theorem setHacc_seedOperand : (setHacc v s).seedOperand = s.seedOperand := rfl
@[simp] theorem setBlock_inputBytes : (setBlock i j s).inputBytes = s.inputBytes := rfl
@[simp] theorem setBlock_secretBytes : (setBlock i j s).secretBytes S = s.secretBytes S := by cases S <;> rfl
@[simp] theorem setBlock_secretOperand : (setBlock i j s).secretOperand = s.secretOperand := rfl
@[simp] theorem setBlock_seedOperand : (setBlock i j s).seedOperand = s.seedOperand := rfl
@[simp] theorem setRnd_inputBytes : (setRnd i s).inputBytes = s.inputBytes := rfl
@[simp] theorem setRnd_secretBytes : (setRnd i s).secretBytes S = s.secretBytes S := by cases S <;> rfl
@[simp] theorem setRnd_secretOperand : (setRnd i s).secretOperand = s.secretOperand := rfl
@[simp] theorem setRnd_seedOperand : (setRnd i s).seedOperand = s.seedOperand := rfl
@[simp] theorem goto_inputBytes : (goto p s).inputBytes = s.inputBytes := rfl
@[simp] theorem goto_secretBytes : (goto p s).secretBytes S = s.secretBytes S := by cases S <;> rfl
@[simp] theorem goto_secretOperand : (goto p s).secretOperand = s.secretOperand := rfl
@[simp] theorem goto_seedOperand : (goto p s).seedOperand = s.seedOperand := rfl
end

variable {s : State} {S : SecretOperand} {io : Word} {so : Nat} {seed n : Word}

/-- MIX16 within its bounds: the value, and the mark if a byte holds no value. -/
theorem execMix16_within (h1 : io.toNat + 16 ≤ s.latch.len.toNat) (hS : S.wf = true) (h2 : so + 16 ≤ S.size) :
    execMix16 io S so seed s =
      .next (setOut (mix16 s.inputBytes io.toNat (s.secretBytes S) so seed)
        (mark (!Mem.known s.input io.toNat 16 || !s.secretKnown S so 16) s)) := by
  simp [execMix16, readInput_within h1, readSecret_within hS h2, mark_mark]

/-- ACCUMULATE within its bounds. -/
theorem execAccumulate_within (h1 : io.toNat + 64 ≤ s.latch.len.toNat) (hS : S.wf = true) (h2 : so + 64 ≤ S.size) :
    execAccumulate io S so s =
      .next (setAcc (accumulate s.inputBytes io.toNat (s.secretBytes S) so s.acc)
        (mark (!Mem.known s.input io.toNat 64 || !s.secretKnown S so 64) s)) := by
  simp [execAccumulate, readInput_within h1, readSecret_within hS h2, mark_mark]

/-- SCRAMBLE of a secret operand that some strategy may read. -/
theorem execScramble_within (hS : S.wf = true) :
    execScramble S s =
      .next (setAcc (scramble (s.secretBytes S) S.size s.acc) (mark (!s.secretKnown S (S.size - 64) 64) s)) := by
  have := SecretOperand.size_of_wf hS
  simp [execScramble, readSecret_within (s := s) hS (show S.size - 64 + 64 ≤ S.size by omega)]

/-- MERGE of a secret operand that some strategy may read. -/
theorem execMerge_within (hS : S.wf = true) :
    execMerge n S s =
      .next (setOut (mergeAcc n (s.secretBytes S) s.acc)
        (setHacc (mergeSum n (s.secretBytes S) s.acc) (mark (!s.secretKnown S 11 64) s))) := by
  have := SecretOperand.size_of_wf hS
  simp [execMerge, readSecret_within (s := s) hS (show 11 + 64 ≤ S.size by omega)]

/-- The class decode is the row whose range holds the length. -/
theorem lengthClass_has (n : Word) : (lengthClass n).has n = true := by
  have := n.isLt
  rw [lengthClass_eq]
  repeat' split
  all_goals exact decide_eq_true (by simp only [LenClass.lenMin, LenClass.lenMax]; omega)

/-- Every read of a class lies within the length (20_memory.md R55). -/
theorem inputReads_within {c : LenClass} {n : Nat} (hc : c.lenMin ≤ n ∧ n ≤ c.lenMax) :
    ∀ r ∈ inputReads n c, r.1 + r.2 ≤ n := by
  intro r hr
  cases c <;> simp only [LenClass.lenMin, LenClass.lenMax] at hc <;>
    simp only [inputReads, List.mem_cons, List.mem_append, List.mem_flatMap, List.mem_map, List.mem_range,
      List.not_mem_nil, or_false, roundsLen17_128] at hr
  · obtain rfl | rfl | rfl := hr <;> simp only <;> omega
  · obtain rfl | rfl := hr <;> simp only <;> omega
  · obtain rfl | rfl := hr <;> simp only <;> omega
  · obtain ⟨i, hi, rfl | rfl⟩ := hr <;> simp only <;> omega
  · obtain ⟨i, hi, rfl⟩ | rfl := hr <;> simp only <;> omega
  · obtain ⟨i, hi, rfl⟩ | rfl := hr <;> simp only <;> omega

/-- Every secret read of a class up to 240 bytes lies within 136 bytes (R65). -/
theorem secretReads_within {c : LenClass} {n : Nat} (hc : c.lenMin ≤ n ∧ n ≤ c.lenMax) :
    ∀ r ∈ secretReads n c, r.1 + r.2 ≤ 136 := by
  intro r hr
  cases c <;> simp only [LenClass.lenMin, LenClass.lenMax] at hc <;>
    simp only [secretReads, List.mem_cons, List.mem_append, List.mem_flatMap, List.mem_map, List.mem_range,
      List.not_mem_nil, or_false, roundsLen17_128] at hr
  · obtain rfl | rfl := hr <;> simp only <;> omega
  · obtain rfl | rfl := hr <;> simp only <;> omega
  · obtain rfl | rfl := hr <;> simp only <;> omega
  · obtain rfl | rfl | rfl | rfl := hr <;> simp only <;> omega
  · obtain ⟨i, hi, rfl | rfl⟩ := hr <;> simp only <;> omega
  · obtain (⟨i, hi, rfl⟩ | ⟨i, hi, rfl⟩) | rfl := hr <;> simp only <;> omega

/-- The blocks and stripes of a length add up to its full stripes (44_stripe_engine.md R173). -/
theorem fullBlocks_mul_le (n Z : Nat) : fullBlocks n Z * blockLen Z ≤ n - 1 := Nat.div_mul_le_self _ _

theorem tailStripes_le (n Z : Nat) : fullBlocks n Z * blockLen Z + 64 * tailStripes n Z ≤ n - 1 := by
  have h := fullBlocks_mul_le n Z
  have : 64 * tailStripes n Z ≤ (n - 1) - blockLen Z * fullBlocks n Z := Nat.mul_div_le _ _
  rw [Nat.mul_comm (blockLen Z)] at this
  omega

theorem stripesPerBlock_bounds {Z : Nat} (h1 : 136 ≤ Z) (h2 : Z ≤ 192) :
    9 ≤ stripesPerBlock Z ∧ stripesPerBlock Z ≤ 16 ∧ 8 * stripesPerBlock Z + 64 ≤ Z := by
  rw [stripesPerBlock_eq]; omega

theorem tailStripes_lt {n Z : Nat} (h1 : 136 ≤ Z) (h2 : Z ≤ 192) : tailStripes n Z < stripesPerBlock Z := by
  have hs := stripesPerBlock_bounds h1 h2
  have hpos : 0 < blockLen Z := by rw [blockLen_eq]; omega
  have := Nat.mod_lt (n - 1) hpos
  have hm : (n - 1) - blockLen Z * fullBlocks n Z = (n - 1) % blockLen Z := by
    have := Nat.div_add_mod (n - 1) (blockLen Z)
    unfold fullBlocks; omega
  rw [tailStripes_eq, hm]
  rw [blockLen_eq] at *
  omega

/-- Every secret read of STRIPELOOP lies within the secret (R65). -/
theorem stripeSecretReads_within {n Z : Nat} (h1 : 136 ≤ Z) (h2 : Z ≤ 192) :
    ∀ r ∈ stripeSecretReads n Z, r.1 + r.2 ≤ Z := by
  have hs := stripesPerBlock_bounds h1 h2
  have ht := tailStripes_lt (n := n) h1 h2
  intro r hr
  simp only [stripeSecretReads] at hr
  split at hr <;> simp only [List.mem_cons, List.mem_append, List.mem_map, List.mem_range, List.not_mem_nil,
    or_false] at hr
  · obtain ⟨i, hi, rfl⟩ | rfl := hr <;> simp only <;> omega
  · obtain ⟨i, hi, rfl⟩ | rfl | rfl := hr <;> simp only <;> omega

/-- A strategy whose length is in its class and within `LEN` reads in bounds; only the mark may change. -/
theorem strategyReads_within {c : LenClass} (hc : c.has n = true) (hn : n.toNat ≤ s.latch.len.toNat)
    (hS : S.wf = true) :
    strategyReads c n S s =
      .next (mark (!(inputReads n.toNat c).all (fun r => Mem.known s.input r.1 r.2) ||
        !(secretReads n.toNat c).all fun r => s.secretKnown S r.1 r.2) s) := by
  have hc' : c.lenMin ≤ n.toNat ∧ n.toNat ≤ c.lenMax := by simpa [LenClass.has] using hc
  have hz := SecretOperand.size_of_wf hS
  rw [strategyReads, requireClass_of_has hc, andThen_next,
    readInputs_within fun r hr => Nat.le_trans (inputReads_within hc' r hr) hn, andThen_next,
    readSecrets_within hS fun r hr => Nat.le_trans (secretReads_within hc' r hr) hz.1, mark_mark]
  simp

/-- A strategy over bytes that all hold a value changes nothing by its reads. -/
theorem strategyReads_of_known {c : LenClass} (hc : c.has n = true) (hn : n.toNat ≤ s.latch.len.toNat)
    (hk : Mem.known s.input 0 n.toNat = true) (hS : S.wf = true) (hK : s.secretKnown S 0 136 = true) :
    strategyReads c n S s = .next s := by
  have hc' : c.lenMin ≤ n.toNat ∧ n.toNat ≤ c.lenMax := by simpa [LenClass.has] using hc
  rw [strategyReads_within hc hn hS]
  have h1 : (inputReads n.toNat c).all (fun r => Mem.known s.input r.1 r.2) = true :=
    List.all_eq_true.2 fun r hr =>
      Mem.known_sub hk (Nat.zero_le _) (by simpa using inputReads_within hc' r hr)
  have h2 : (secretReads n.toNat c).all (fun r => s.secretKnown S r.1 r.2) = true :=
    List.all_eq_true.2 fun r hr => secretKnown_sub hK (secretReads_within hc' r hr)
  simp [h1, h2]

end Sys2Proof.Machine
end

