-- ==== Sys2Proof/Laws/PerInstr.lean ====
section
/-! SUPPORT. Statements about every instruction as syntax, one lemma a constructor. -/

namespace Sys2Proof.Laws.CommandWord

/-- 30_encoding.md R80, R81, R87: where an instruction has a command word, its reserved field is zero and its operation
code is one of the four. -/
def Statement (i : Instr) : Prop := ∀ w, encodeWord i = some w → reservedField w = 0 ∧ (opField w).toNat ≤ 3

theorem of_none {i : Instr} (h : encodeWord i = none) : Statement i := fun w hw => by rw [h] at hw; cases hw

theorem of_some {i : Instr} {v : Half} (h : encodeWord i = some v) (hv : reservedField v = 0 ∧ (opField v).toNat ≤ 3) :
    Statement i := fun w hw => by
  rw [h] at hw
  cases hw
  exact hv

theorem nop : Statement .nop := of_some rfl (by decide)
theorem hash64 : Statement .hash64 := of_some rfl (by decide)
theorem hash64s : Statement .hash64s := of_some rfl (by decide)
theorem clear : Statement .clear := of_some rfl (by decide)
theorem len0 (S : SecretOperand) (seed : Word) : Statement (.len0 S seed) := of_none rfl
theorem len1_3 (n : Word) (S : SecretOperand) (seed : Word) : Statement (.len1_3 n S seed) := of_none rfl
theorem len4_8 (n : Word) (S : SecretOperand) (seed : Word) : Statement (.len4_8 n S seed) := of_none rfl
theorem len9_16 (n : Word) (S : SecretOperand) (seed : Word) : Statement (.len9_16 n S seed) := of_none rfl
theorem len17_128 (n : Word) (S : SecretOperand) (seed : Word) : Statement (.len17_128 n S seed) := of_none rfl
theorem len129_240 (n : Word) (S : SecretOperand) (seed : Word) : Statement (.len129_240 n S seed) := of_none rfl
theorem long (n : Word) (S : SecretOperand) : Statement (.long n S) := of_none rfl
theorem derive (seed : Word) : Statement (.derive seed) := of_none rfl
theorem dispatch (n : Word) : Statement (.dispatch n) := of_none rfl
theorem mix16 (io : Word) (S : SecretOperand) (so : Nat) (seed : Word) : Statement (.mix16 io S so seed) := of_none rfl
theorem initacc : Statement .initacc := of_none rfl
theorem accumulate (io : Word) (S : SecretOperand) (so : Nat) : Statement (.accumulate io S so) := of_none rfl
theorem scramble (S : SecretOperand) : Statement (.scramble S) := of_none rfl
theorem stripeloop (n : Word) (S : SecretOperand) : Statement (.stripeloop n S) := of_none rfl
theorem merge (n : Word) (S : SecretOperand) : Statement (.merge n S) := of_none rfl
theorem avalanche (h : Word) : Statement (.avalanche h) := of_none rfl
theorem avalanche64 (h : Word) : Statement (.avalanche64 h) := of_none rfl
theorem rrmxmx (h len : Word) : Statement (.rrmxmx h len) := of_none rfl

end Sys2Proof.Laws.CommandWord
end

