-- ==== Sys2Proof/Laws/Sequencer.lean ====
section
/-! SUPPORT. What the pieces of the sequencer do when their reads are in bounds, the class of a length by its range,
what the invariant says of the secret operand, and runs of several steps. -/

namespace Sys2Proof.Machine

/-! ### Whose turn it is -/

theorem step_of_silence {s : State} (h : s.inbox = []) : step s = engineMove s := by
  simp [step, turn, h]

theorem step_of_write {s : State} {off : Nat} {w : Width} {v : Word} {rest : List HostMove}
    (h : s.inbox = .write off w v :: rest) : step s = hostWrite off w v { s with inbox := rest } := by
  simp [step, turn, h]

theorem step_of_read {s : State} {off : Nat} {w : Width} {rest : List HostMove}
    (h : s.inbox = .read off w :: rest) : step s = hostRead off w { s with inbox := rest } := by
  simp [step, turn, h]

theorem step_of_store {s : State} {off : Word} {b : Byte} {rest : List HostMove}
    (h : s.inbox = .store off b :: rest) : step s = .next (hostStore off b { s with inbox := rest }) := by
  simp [step, turn, h]

theorem step_of_load {s : State} {off : Word} {rest : List HostMove}
    (h : s.inbox = .load off :: rest) : step s = .next (hostLoad off { s with inbox := rest }) := by
  simp [step, turn, h]

/-- What a host read of a byte of `IN` does where the byte holds a value, and where it holds none. -/
theorem hostLoad_of_some {s : State} {off : Word} {b : Byte} (h : Mem.read? s.input off.toNat = some b) :
    hostLoad off s = { s with reads := .input off b :: s.reads } := by
  simp [hostLoad, State.inputBytes, Mem.known, h]

theorem hostLoad_of_none {s : State} {off : Word} (h : Mem.read? s.input off.toNat = none) :
    hostLoad off s = { s with
      reads := .input off (Config.freeByte .input s.draws off.toNat) :: s.reads
      draws := s.draws + 1 } := by
  simp [hostLoad, State.inputBytes, Mem.known, h]

theorem engineMove_idle {s : State} (h : s.phase = .idle) : engineMove s = .next s := by simp [engineMove, h]
theorem engineMove_done {s : State} (h : s.phase = .done) : engineMove s = .next s := by simp [engineMove, h]
theorem engineMove_fault {s : State} (h : s.phase = .fault) : engineMove s = .next s := by simp [engineMove, h]

/-! ### Runs -/

theorem run_zero (s : State) : core.run 0 s = .next s := rfl

theorem run_succ_of_next {s t : State} (h : step s = .next t) (k : Nat) : core.run (k + 1) s = core.run k t := by
  have h' : core.step s = .next t := h
  simp only [Host.Core.run, h']

/-- A run is cut at any number of steps. -/
theorem run_add (j k : Nat) {s t : State} (h : core.run j s = .next t) : core.run (j + k) s = core.run k t := by
  induction j generalizing s with
  | zero =>
    have : s = t := Host.Outcome.next.inj h
    rw [this, Nat.zero_add]
  | succ j ih =>
    rw [Nat.add_right_comm]
    simp only [Host.Core.run] at h ⊢
    split at h
    · next s' hs => exact ih h
    · cases h
    · cases h

/-! ### The class of a length -/

theorem lengthClass_len0 {n : Word} (h : n.toNat = 0) : lengthClass n = .len0 := by simp [lengthClass, h]

theorem lengthClass_len1_3 {n : Word} (h1 : 1 ≤ n.toNat) (h2 : n.toNat ≤ 3) : lengthClass n = .len1_3 := by
  rw [lengthClass_eq]; repeat' split
  all_goals first | rfl | (exfalso; omega)

theorem lengthClass_len4_8 {n : Word} (h1 : 4 ≤ n.toNat) (h2 : n.toNat ≤ 8) : lengthClass n = .len4_8 := by
  rw [lengthClass_eq]; repeat' split
  all_goals first | rfl | (exfalso; omega)

theorem lengthClass_len9_16 {n : Word} (h1 : 9 ≤ n.toNat) (h2 : n.toNat ≤ 16) : lengthClass n = .len9_16 := by
  rw [lengthClass_eq]; repeat' split
  all_goals first | rfl | (exfalso; omega)

theorem lengthClass_len17_128 {n : Word} (h1 : 17 ≤ n.toNat) (h2 : n.toNat ≤ 128) : lengthClass n = .len17_128 := by
  rw [lengthClass_eq]; repeat' split
  all_goals first | rfl | (exfalso; omega)

theorem lengthClass_len129_240 {n : Word} (h1 : 129 ≤ n.toNat) (h2 : n.toNat ≤ 240) :
    lengthClass n = .len129_240 := by
  rw [lengthClass_eq]; repeat' split
  all_goals first | rfl | (exfalso; omega)

theorem lengthClass_long {n : Word} (h1 : 241 ≤ n.toNat) : lengthClass n = .long := by
  rw [lengthClass_eq]; repeat' split
  all_goals first | rfl | (exfalso; omega)

/-! ### The secret operand of a command in flight -/

theorem secretOperand_of_hash64 {s : State} (h : s.latch.cmd = .hash64) :
    s.secretOperand = .ksec ∨ s.secretOperand = .esec := by
  unfold State.secretOperand secretFor
  rw [h]
  cases lengthClass s.latch.len <;> simp

theorem secretOperand_of_hash64s {s : State} (h : s.latch.cmd = .hash64s) :
    s.secretOperand = .csec s.latch.seclen.toNat := by
  simp [State.secretOperand, secretFor, h]

/-- A command whose checks have passed has a secret operand that a strategy may read. -/
theorem secretOperand_wf {s : State}
    (h : s.latch.cmd = .hash64s → 136 ≤ s.latch.seclen.toNat ∧ s.latch.seclen.toNat ≤ 192) :
    s.secretOperand.wf = true := by
  cases hc : s.latch.cmd with
  | hash64 =>
    rcases secretOperand_of_hash64 hc with h' | h' <;> rw [h'] <;> rfl
  | hash64s =>
    rw [secretOperand_of_hash64s hc]
    exact decide_eq_true (h hc)

/-! ### Rounds and stripes -/

/-- A MIX16 of the sequencer within its bounds. -/
theorem mixInto_within {s : State} {io so : Nat} (h1 : io + 16 ≤ s.latch.len.toNat)
    (hS : s.secretOperand.wf = true) (h2 : so + 16 ≤ s.secretOperand.size) :
    ∃ b, mixInto io so s =
      .next (setHacc (s.hacc + mix16 s.inputBytes io (s.secretBytes s.secretOperand) so s.seedOperand)
        (setOut (mix16 s.inputBytes io (s.secretBytes s.secretOperand) so s.seedOperand) (mark b s))) := by
  have hio : (BitVec.ofNat 64 io).toNat = io := by
    have := s.latch.len.isLt
    rw [BitVec.toNat_ofNat, Nat.mod_eq_of_lt (by omega)]
  exact ⟨_, by rw [mixInto, exec, execMix16_within (by rwa [hio]) hS h2, andThen_next, hio]; rfl⟩

/-- A stripe of the sequencer within its bounds. -/
theorem stripeOf_within {s : State} {b : Nat}
    (h1 : b * blockLen s.secretOperand.size + 64 * s.str.toNat + 64 ≤ s.latch.len.toNat)
    (hS : s.secretOperand.wf = true) (h2 : 8 * s.str.toNat + 64 ≤ s.secretOperand.size) :
    ∃ m, stripeOf b s =
      .next (setBlock s.blk (s.str + 1)
        (setAcc
          (accumulate s.inputBytes (b * blockLen s.secretOperand.size + 64 * s.str.toNat)
            (s.secretBytes s.secretOperand) (8 * s.str.toNat) s.acc)
          (mark m s))) := by
  have hio : (BitVec.ofNat 64 (b * blockLen s.secretOperand.size + 64 * s.str.toNat)).toNat =
      b * blockLen s.secretOperand.size + 64 * s.str.toNat := by
    have := s.latch.len.isLt
    rw [BitVec.toNat_ofNat, Nat.mod_eq_of_lt (by omega)]
  exact ⟨_, by rw [stripeOf, exec, execAccumulate_within (by rwa [hio]) hS h2, andThen_next, hio]; rfl⟩

end Sys2Proof.Machine
end

