-- ==== Sys2Proof/Tests/Slice0.lean ====
section
/-! SUPPORT. Tests. The expected values are those of 95_test_vectors.md and of the worked examples of the rules, as each
comment says. The last part holds, for every statement with hypotheses, a state and operands that meet them. -/

namespace Sys2Proof.Tests
open Sys2Proof Sys2Proof.Machine

set_option Elab.async false

/-! ### Helpers -/

/-- `PAT` (95_test_vectors.md section 2.1): `k` bytes at offsets from `i` on, the generator standing at `g`. -/
def patFrom : Nat → Nat → Word → Mem
  | 0, _, _ => []
  | k + 1, i, g => (i, g.extractLsb' 56 8) :: patFrom k (i + 1) (g * 0x9E3779B185EBCA8D)

/-- `PAT[0..n-1]`. -/
def pat (n : Nat) : Mem := patFrom n 0 0x000000009E3779B1

/-- `PAT[7..7+z-1]` at offsets 0 to `z - 1`. -/
def patSecret (z : Nat) : Mem := ((pat (z + 7)).drop 7).map fun c => (c.1 - 7, c.2)

/-- Reset, with operands for a command over input `m`, `n` bytes long. -/
def idleWith (m : Mem) (n : Nat) : State :=
  { State.reset with
    len := BitVec.ofNat 64 n
    bufsz := BitVec.ofNat 64 n
    input := m }

/-- A command of length `n` over the pattern in flight. -/
def running (m : Mem) (n : Nat) : State :=
  { idleWith m n with
    latch := { cmd := .hash64, seed := 0, len := BitVec.ofNat 64 n, bufsz := BitVec.ofNat 64 n, seclen := 0 } }

/-- The value an internal operation returned. -/
def outOf : Result → Option Word
  | .next t => some t.out
  | .fault _ => none
  | .refused _ => none

/-- The accumulators an internal operation left. -/
def accOf : Result → Option (List Word)
  | .next t => some t.acc.toList
  | .fault _ => none
  | .refused _ => none

/-- `STATUS` and `FAULTINFO` after a step. -/
def statusOf : Result → Option (Half × Word)
  | .next t => some (t.status.word, t.faultinfo)
  | .fault _ => none
  | .refused _ => none

/-- The next state answers `f`. -/
def nextIs (r : Result) (f : State → Bool) : Bool :=
  match r with
  | .next t => f t
  | .fault _ => false
  | .refused _ => false

/-! ### Well-formedness: for each check a term it refuses -/

theorem smoke_len0_secret : (Instr.len0 (.csec 135) 0).wf = false := by decide
theorem smoke_len1_3_length : (Instr.len1_3 4 .ksec 0).wf = false := by decide
theorem smoke_len1_3_secret : (Instr.len1_3 3 (.csec 193) 0).wf = false := by decide
theorem smoke_len4_8_length : (Instr.len4_8 3 .ksec 0).wf = false := by decide
theorem smoke_len4_8_secret : (Instr.len4_8 4 (.csec 0) 0).wf = false := by decide
theorem smoke_len9_16_length : (Instr.len9_16 17 .ksec 0).wf = false := by decide
theorem smoke_len9_16_secret : (Instr.len9_16 16 (.csec 100) 0).wf = false := by decide
theorem smoke_len17_128_length : (Instr.len17_128 16 .ksec 0).wf = false := by decide
theorem smoke_len17_128_secret : (Instr.len17_128 17 (.csec 135) 0).wf = false := by decide
theorem smoke_len129_240_length : (Instr.len129_240 241 .ksec 0).wf = false := by decide
theorem smoke_len129_240_secret : (Instr.len129_240 240 (.csec 200) 0).wf = false := by decide
theorem smoke_long_length : (Instr.long 240 .esec).wf = false := by decide
theorem smoke_long_secret : (Instr.long 241 (.csec 135)).wf = false := by decide
theorem smoke_mix16_secret : (Instr.mix16 0 (.csec 135) 0 0).wf = false := by decide
theorem smoke_mix16_secret_end : (Instr.mix16 0 .ksec 177 0).wf = false := by decide
theorem smoke_mix16_input_end : (Instr.mix16 0xFFFFFFFFFFFFFFF0 .ksec 0 0).wf = false := by decide
theorem smoke_accumulate_secret : (Instr.accumulate 0 (.csec 193) 0).wf = false := by decide
theorem smoke_accumulate_secret_end : (Instr.accumulate 0 .esec 129).wf = false := by decide
theorem smoke_accumulate_input_end : (Instr.accumulate 0xFFFFFFFFFFFFFFC0 .esec 0).wf = false := by decide
theorem smoke_scramble_secret : (Instr.scramble (.csec 64)).wf = false := by decide
theorem smoke_stripeloop_length : (Instr.stripeloop 0 .esec).wf = false := by decide
theorem smoke_stripeloop_secret : (Instr.stripeloop 241 (.csec 193)).wf = false := by decide
theorem smoke_merge_length : (Instr.merge 240 .esec).wf = false := by decide
theorem smoke_merge_secret : (Instr.merge 241 (.csec 10)).wf = false := by decide
theorem smoke_rrmxmx_length : (Instr.rrmxmx 0 9).wf = false := by decide
theorem smoke_wf_terms :
    (Instr.len0 (.csec 136) 0).wf = true ∧ (Instr.mix16 0 .ksec 176 0).wf = true ∧
      (Instr.long 0xFFFFFFFFFFFFFFFF (.csec 192)).wf = true ∧ (Instr.accumulate 177 .esec 121).wf = true := by decide

/-! ### Decoding (30_encoding.md R80, R81, R84): words written out from the table, bit 31 first -/

theorem test_decode_nop : decodeWord 0b00000000000000000000000000000000#32 = .ok .nop := by rfl
theorem test_decode_hash64 : decodeWord 0b00000000000000000000000000000001#32 = .ok .hash64 := by rfl
theorem test_decode_hash64s : decodeWord 0b00000000000000000000000000000010#32 = .ok .hash64s := by rfl
theorem test_decode_clear : decodeWord 0b00000000000000000000000000000011#32 = .ok .clear := by rfl
theorem test_decode_op4 : decodeWord 0x00000004#32 = .error (.illegalCommand 0x00000004#32) := by rfl
theorem test_decode_op_ff : decodeWord 0x000000FF#32 = .error (.illegalCommand 0x000000FF#32) := by rfl
theorem test_decode_reserved_low : decodeWord 0x00000101#32 = .error (.illegalCommand 0x00000101#32) := by rfl
theorem test_decode_reserved_high : decodeWord 0x80000001#32 = .error (.illegalCommand 0x80000001#32) := by rfl
theorem test_decode_bytes : decode [0x02, 0x00, 0x00, 0x00, 0x55] = .ok (.hash64s, [0x55]) := by rfl
theorem test_decode_short : decode [0x01, 0x00, 0x00] = .error .tooShort := by rfl
theorem test_encode_bytes : encode .clear = some [0x03, 0x00, 0x00, 0x00] := by rfl
theorem test_table_word : decodeTableWord 32 1 = some .hash64 ∧ decodeTableWord 32 0x10000 = none := by decide

/-- The twelve boundary lengths of R130 and the largest length. -/
theorem test_length_classes :
    ([0, 1, 3, 4, 8, 9, 16, 17, 128, 129, 240, 241, 0xFFFFFFFFFFFFFFFF] : List Word).map lengthClass =
      [.len0, .len1_3, .len1_3, .len4_8, .len4_8, .len9_16, .len9_16, .len17_128, .len17_128, .len129_240,
        .len129_240, .long, .long] := by decide

/-! ### Constants (Table KSEC-W of 10_state.md R29; 95_test_vectors.md section 3.1) -/

theorem test_ksec_words :
    (List.range 24).map (fun k => rd64 ksecBytes (8 * k)) =
      [0xBE4BA423396CFEB8, 0x1CAD21F72C81017C, 0xDB979083E96DD4DE, 0x1F67B3B7A4A44072,
        0x78E5C0CC4EE679CB, 0x2172FFCC7DD05A82, 0x8E2443F7744608B8, 0x4C263A81E69035E0] ++
      [0xCB00C391BB52283C, 0xA32E531B8B65D088, 0x4EF90DA297486471, 0xD8ACDEA946EF1938,
        0x3F349CE33F76FAA8, 0x1D4F0BC7C7BBDCF9, 0x3159B4CD4BE0518A, 0x647378D9C97E9FC8] ++
      [0xC3EBD33483ACC5EA, 0xEB6313FAFFA081C5, 0x49DAF0B751DD0D17, 0x9E68D429265516D3,
        0xFCA1477D58BE162B, 0xCE31D07AD1B8F88F, 0x280416958F3ACB45, 0x7E404BBBCAFBD7AF] := by decide +kernel

theorem test_unaligned_reads :
    rd64 ksecBytes 11 = 0x6DD4DE1CAD21F72C ∧ rd64 ksecBytes 121 = 0xEA647378D9C97E9F ∧
      rd32 ksecBytes 4 = 0xBE4BA423 := by decide +kernel

theorem test_rotl64 :
    rotl64 0x0123456789ABCDEF 49 = 0x9BDE02468ACF1357 ∧ rotl64 0x0123456789ABCDEF 24 = 0x6789ABCDEF012345 := by decide

theorem test_mul32 : mul32 0x0123456789ABCDEF = 0x009CA39DC94E4629 := by decide

/-! ### Commands (95_test_vectors.md section 3.10) -/

/-- DONE with class 2: NOP keeps everything. -/
theorem test_nop_in_done :
    statusOf (exec .nop { State.reset with status := { state := .done, fcode := 0, lclass := 2 }, phase := .done }) =
      some (0x00000202, 0) := by decide

theorem test_hash64_busy : statusOf (exec .hash64 (idleWith [] 5)) = some (0x00000701, 0) := by decide

/-- `LEN` 5, `BUFSZ` 4: OutOfBounds at P_CHECK. -/
theorem test_hash64_out_of_bounds :
    statusOf (andThen (exec .hash64 { idleWith [] 5 with bufsz := 4 }) step) = some (0x00000713, 5) := by decide

/-- `SECLEN` 100, `LEN` 10, `BUFSZ` 5: InvalidSecret has priority. -/
theorem test_hash64s_invalid_secret :
    statusOf (andThen (exec .hash64s { idleWith [] 10 with bufsz := 5, seclen := 100 }) step) =
      some (0x00000723, 0x64) := by decide

/-- `SECLEN` 136, `LEN` 10, `BUFSZ` 5: the secret passes, the length fails. -/
theorem test_hash64s_out_of_bounds :
    statusOf (andThen (exec .hash64s { idleWith [] 10 with bufsz := 5, seclen := 136 }) step) =
      some (0x00000713, 0xA) := by decide

/-- CLEAR in FAULT. -/
theorem test_clear_in_fault :
    nextIs (exec .clear (raiseFault 1 5 State.reset)) (fun t => decide (t.status.word = 0x00000700#32)) = true := by
  decide

/-- An illegal word in IDLE, zero-extended into `FAULTINFO`. -/
theorem test_illegal_word :
    statusOf (step { State.reset with inbox := [.write 0x000 .b4 0xFFFFFFFF] }) =
      some (0x00000733, 0x00000000FFFFFFFF) := by decide

/-! ### Strategies up to 240 bytes (95_test_vectors.md sections 3.3, 3.7, 3.9) -/

theorem test_len0 : outOf (exec (.len0 .ksec 0) (running [] 0)) = some 0x2D06800538D394C2 := by decide +kernel
theorem test_len0_seed : outOf (exec (.len0 .ksec 1) (running [] 0)) = some 0x4DC5B0CC826F6703 := by decide +kernel
theorem test_len1_3 : outOf (exec (.len1_3 3 .ksec 1) (running (pat 3) 3)) = some 0x03D22A2BEE351F17 := by decide +kernel
theorem test_len1_3_two : outOf (exec (.len1_3 2 .ksec 0) (running [(0, 0xAA), (1, 0xBB)] 2)) = some 0x3202F90AEAB2B568 := by
  decide +kernel
theorem test_len4_8_overlap :
    outOf (exec (.len4_8 5 .ksec 0x123456789ABCDEF0) (running [(0, 1), (1, 2), (2, 3), (3, 4), (4, 5)] 5)) =
      some 0x57A02181628D2952 := by decide +kernel
theorem test_len4_8_longest : outOf (exec (.len4_8 8 .ksec 1) (running (pat 8) 8)) = some 0x6EDD0A446C3329ED := by
  decide +kernel
theorem test_len9_16 : outOf (exec (.len9_16 9 .ksec 1) (running (pat 9) 9)) = some 0x1E61BAC9667D1D90 := by decide +kernel
theorem test_len9_16_custom :
    outOf (exec (.len9_16 12 (.csec 147) 0) { running (pat 12) 12 with csec := patSecret 147 }) =
      some 0x14631E773B78EC57 := by decide +kernel
theorem test_len17_128 : outOf (exec (.len17_128 33 .ksec 1) (running (pat 33) 33)) = some 0xDA99AAAD4DBBFFAF := by
  decide +kernel
/-- 240 bytes have sixteen rounds (R151), 0 to 15 in the 4 bits of `RND` (R26): after round 14 one remains, after
round 15 none. -/
theorem test_rnd_sixteen_rounds :
    (countRound { running [] 240 with rnd := 14 }).roundsDone = false ∧
      (countRound { running [] 240 with rnd := 14 }).rnd = 15 ∧
      (countRound { running [] 240 with rnd := 15 }).roundsDone = true := by decide
theorem test_len129_240 : outOf (exec (.len129_240 144 .ksec 1) (running (pat 144) 144)) = some 0x3C099C34C3ADC635 := by
  decide +kernel

/-! ### The internal operations (worked examples of R108, R120, R170 to R175, R200 to R202) -/

theorem test_derive :
    nextIs (exec (.derive 0x48) State.reset) (fun t => decide (t.esec.toList.take 16 =
      [0x00, 0xFF, 0x6C, 0x39, 0x23, 0xA4, 0x4B, 0xBE, 0x34, 0x01, 0x81, 0x2C, 0xF7, 0x21, 0xAD, 0x1C])) = true := by
  decide +kernel
theorem test_derive_last_block :
    nextIs (exec (.derive 0x9E3779B185EBCA8D) State.reset) (fun t => decide (t.esec.toList.drop 176 =
      [0xD2, 0x95, 0x26, 0x15, 0x47, 0x90, 0x3B, 0xC6, 0x22, 0x0D, 0x10, 0x45, 0x0A, 0xD2, 0x08, 0xE0])) = true := by
  decide +kernel
theorem test_dispatch :
    nextIs (exec (.dispatch 240) State.reset) (fun t => decide (t.nextClass = 5 ∧ t.phase = .mid)) = true := by decide
theorem test_mix16 : outOf (exec (.mix16 0 .ksec 0 1) (running (pat 16) 16)) = some 0x31FEB9C3C463B6C5 := by decide +kernel
theorem test_mix16_overread :
    nextIs (exec (.mix16 1 .ksec 0 1) (running (pat 16) 16)) (fun _ => true) = false := by decide +kernel
theorem test_initacc :
    accOf (exec .initacc State.reset) = some
      [0x00000000C2B2AE3D, 0x9E3779B185EBCA87, 0xC2B2AE3D27D4EB4F, 0x165667B19E3779F9,
        0x85EBCA77C2B2AE63, 0x0000000085EBCA77, 0x27D4EB2F165667C5, 0x000000009E3779B1] := by decide +kernel
theorem test_accumulate :
    accOf (exec (.accumulate 0 .ksec 0) { running (pat 64) 64 with acc := initAcc }) = some
      [0xF65A36A2039158CA, 0x2A5B24E970F04150, 0x0BA1A870F589F167, 0xBC3BFCEA53AC811F,
        0xE1EC8AFABC5F44B6, 0x3773C5D9C03AF696, 0xD2030499AA8DE48D, 0x7E3EB4A4F7C0A071] := by decide +kernel
theorem test_scramble :
    accOf (exec (.scramble .ksec) { State.reset with acc := initAcc }) = some
      [0x8D4B7E0044322EA7, 0x714C66898244316C, 0x7C7158928ACF722D, 0xADD99E8723A505A6,
        0xF19114F2B68857EF, 0x664E6DC4A3E57578, 0x6534CB20A7767059, 0x91D5730A4C4290BE] := by decide +kernel
/-- MERGE of the running example: the accumulators after its last stripe. -/
theorem test_merge :
    outOf (exec (.merge 403 .ksec) { State.reset with acc := #v[0x98672E2C19B2A9CB, 0xF7BCBDD4A14249AF,
      0x8E133F156DF1205D, 0x2943E2F87BD26F0E, 0x76CC068D7DF98C1C, 0xAC1ECAB15426849A, 0x5BA6C8BBE0E2ACF1,
      0x6BA55D1E72C3AF1A] }) = some 0xCDEB804D65C6DEA4 := by decide +kernel
/-- `ZERO(241)`, seed 0. -/
theorem test_long :
    outOf (exec (.long 241 .ksec) (running ((pat 241).map fun c => (c.1, 0)) 241)) = some 0x5C5B5D5D40C59CE3 := by
  decide +kernel
/-- The schedules of 95_test_vectors.md section 3.5: SCRAMBLEs and ACCUMULATEs for 1024 and 1025 bytes. -/
theorem test_stripeloop_schedule :
    (stripeSchedule 1024 192).length = 16 ∧ (stripeSchedule 1025 192).length = 18 ∧
      (stripeSchedule 1025 192).getLast? = some (.accumulate 961 121) := by decide +kernel
theorem test_stripeloop_counters :
    nextIs (exec (.stripeloop 241 .ksec) (running (pat 241) 241)) (fun t => decide (t.blk = 0 ∧ t.str = 3)) = true := by
  decide +kernel
theorem test_avalanche : outOf (exec (.avalanche 0x0123456789ABCDEF) State.reset) = some 0x653196EE4F4A174A := by decide
theorem test_avalanche64 : outOf (exec (.avalanche64 0x0123456789ABCDEF) State.reset) = some 0xB84DA6F78DBF6DE2 := by
  decide
theorem test_rrmxmx : outOf (exec (.rrmxmx 0x0123456789ABCDEF 4) State.reset) = some 0x7CC15222CED0AB7C := by decide
theorem test_rrmxmx_len8 : outOf (exec (.rrmxmx 0 8) State.reset) = some 0xFD90E3272DC8CBA7 := by decide

/-! ### States and operands that meet the hypotheses of the statements -/

/-- One host move waits in an idle engine. -/
def asked (m : HostMove) : State := { State.reset with inbox := [m] }

/-- One host move waits while a command of 5 bytes is in flight. -/
def askedBusy (m : HostMove) : State :=
  { running (pat 5) 5 with status := { state := .busy, fcode := 0, lclass := 7 }, phase := .check, inbox := [m] }

/-- A HASH64S of length `n` with a secret of 136 bytes, in flight at phase `p`. -/
def inFlight (p : Phase) (n : Nat) : State :=
  { State.reset with
    status := { state := .busy, fcode := 0, lclass := 7 }
    phase := p
    len := BitVec.ofNat 64 n
    bufsz := BitVec.ofNat 64 n
    seclen := 136
    latch := { cmd := .hash64s, seed := 0, len := BitVec.ofNat 64 n, bufsz := BitVec.ofNat 64 n, seclen := 136 }
    nextClass := (lengthClass (BitVec.ofNat 64 n)).code }

/-- The same with `BLK`, `STR`, `RND` and the bit beside it. -/
def counting (p : Phase) (n : Nat) (b : Word) (k : BitVec 5) (r : BitVec 4) (d : Bool) : State :=
  { inFlight p n with blk := b, str := k, rnd := r, roundsDone := d }

/-- An engine in FAULT. -/
def faulted : State := raiseFault 1 5 State.reset

/-- An engine in DONE. -/
def doneState : State := { State.reset with status := { state := .done, fcode := 0, lclass := 2 }, phase := .done }

theorem reset_input_wf : Mem.wf State.reset.input ∧ Mem.wf State.reset.csec := by decide

theorem reset_inv : State.reset.Inv where
  state_of_phase := by decide
  fcode_fault := by decide
  fcode_range := by decide
  lclass_done := by decide
  input_wf := by decide
  csec_wf := by decide
  csec_range := by decide
  latched := by decide
  checks_passed := by decide
  derived := by decide
  class_selected := by decide
  progress := trivial

theorem faulted_inv : faulted.Inv where
  state_of_phase := by decide
  fcode_fault := by decide
  fcode_range := by decide
  lclass_done := by decide
  input_wf := by decide
  csec_wf := by decide
  csec_range := by decide
  latched := by decide
  checks_passed := by decide
  derived := by decide
  class_selected := by decide
  progress := trivial

/-- The invariant of a command in flight, but for what its phase asks. -/
theorem counting_inv (p : Phase) (n : Nat) (b : Word) (k : BitVec 5) (r : BitVec 4) (d : Bool) (hp : p.state = .busy)
    (h : (counting p n b k r d).progress) : (counting p n b k r d).Inv where
  state_of_phase := hp.symm
  fcode_fault := by simp [counting, inFlight, fcodeNone]
  fcode_range := by simp [counting, inFlight]
  lclass_done := by simp [counting, inFlight, lclassNone]
  input_wf := List.Pairwise.nil
  csec_wf := List.Pairwise.nil
  csec_range := by simp [counting, inFlight, State.reset]
  latched := fun _ => ⟨rfl, rfl, rfl, rfl⟩
  checks_passed := fun _ => ⟨Nat.le_refl _, fun _ => (by decide : 136 ≤ (136#32).toNat ∧ (136#32).toNat ≤ 192)⟩
  derived := fun _ _ hc => by cases hc
  class_selected := fun _ => rfl
  progress := h

theorem inFlight_inv (p : Phase) (n : Nat) (hp : p.state = .busy) (h : (inFlight p n).progress) : (inFlight p n).Inv :=
  counting_inv p n 0 0 0 false hp h

theorem check_inv : (inFlight .check 5).Inv := inFlight_inv _ _ rfl trivial
theorem dispatch_inv : (inFlight .dispatch 16).Inv := inFlight_inv _ _ rfl trivial
theorem dispatch_long_inv : (inFlight .dispatch 241).Inv := inFlight_inv _ _ rfl trivial
theorem mid_inv : (inFlight .mid 17).Inv :=
  inFlight_inv _ _ rfl (show 17 ≤ (17#64).toNat ∧ (17#64).toNat ≤ 240 ∧ 0 < midRounds 17#64 by decide)
theorem longBlock_inv : (inFlight .longBlock 241).Inv :=
  inFlight_inv _ _ rfl
    (show 241 ≤ (241#64).toNat ∧ 0 ≤ fullBlocks (241#64).toNat 136 ∧ 0 ≤ stripesPerBlock 136 ∧
      (0 = fullBlocks (241#64).toNat 136 → 0 = 0) by decide)
theorem longTail_inv : (inFlight .longTail 241).Inv :=
  inFlight_inv _ _ rfl (show 241 ≤ (241#64).toNat ∧ 0 ≤ tailStripes (241#64).toNat 136 by decide)

theorem witness_step_runs_decoded_command :
    (asked (.write 0x000 .b4 1)).inbox = .write 0x000 .b4 1 :: [] ∧ decodeWord (lowHalf 1) = .ok .hash64 ∧
      decodeTableWord 32 3 = some .clear := by decide

theorem witness_step_runs_engine : State.reset.inbox = [] ∧ (asked .pass).inbox = .pass :: [] := by decide

theorem witness_clear :
    doneState.status.state ≠ .busy ∧ (askedBusy .pass).status.state = .busy ∧ State.reset.Inv ∧
      State.reset.status.state = .idle ∧ exec .clear doneState = .next (acknowledge doneState) :=
  ⟨by decide, by decide, reset_inv, by decide, rfl⟩

theorem witness_accepted : State.reset.ready ∧ doneState.ready ∧ ¬ faulted.ready ∧ ¬ (askedBusy .pass).ready := by decide

theorem witness_table_accept :
    (askedBusy (.write 0x000 .b4 1)).inbox = .write 0x000 .b4 1 :: [] ∧
      (askedBusy (.write 0x000 .b4 1)).status.state = .busy ∧
      faulted.status.state = .fault ∧ lowHalf 1 ≠ 3 ∧ lowHalf 3 = 3 ∧
      (asked (.write 0x000 .b4 0)).ready ∧ lowHalf 0 = 0 ∧ lowHalf 2 = 2 ∧ 3 < (lowHalf 4).toNat := by decide

theorem witness_table_accept_step : State.reset.Inv ∧ step State.reset = .next State.reset := ⟨reset_inv, rfl⟩

theorem witness_illegal_word :
    (asked (.write 0x000 .b4 4)).ready ∧ (asked (.write 0x000 .b4 4)).inbox = .write 0x000 .b4 4 :: [] ∧
      3 < (lowHalf 4).toNat := by decide

theorem witness_hash64_out_of_bounds :
    ∃ s : State, s.ready ∧ s.inbox = [] ∧ s.bufsz.toNat < s.len.toNat :=
  ⟨{ idleWith [] 5 with bufsz := 4 }, by decide⟩

theorem witness_hash64s_faults :
    (∃ s : State, s.ready ∧ s.inbox = [] ∧ s.seclen.toNat = 135) ∧
      (∃ s : State, s.ready ∧ s.inbox = [] ∧ s.seclen.toNat = 193) ∧
      (∃ s : State, s.ready ∧ s.inbox = [] ∧ s.seclen.toNat = 136 ∧ s.bufsz.toNat < s.len.toNat) ∧
      (∃ s : State, s.ready ∧ s.inbox = [] ∧ s.seclen.toNat = 192 ∧ s.bufsz.toNat < s.len.toNat) :=
  ⟨⟨{ State.reset with seclen := 135 }, by decide⟩, ⟨{ State.reset with seclen := 193 }, by decide⟩,
    ⟨{ idleWith [] 5 with bufsz := 4, seclen := 136 }, by decide⟩,
    ⟨{ idleWith [] 5 with bufsz := 4, seclen := 192 }, by decide⟩⟩

theorem witness_only_clear_or_reset :
    faulted.Inv ∧ faulted.status.state = .fault ∧ step faulted = .next faulted := ⟨faulted_inv, by decide, rfl⟩

theorem witness_hash64_completes :
    (idleWith (pat 5) 5).ready ∧ (idleWith (pat 5) 5).inbox = [] ∧
      (idleWith (pat 5) 5).len.toNat ≤ (idleWith (pat 5) 5).bufsz.toNat ∧
      Mem.known (idleWith (pat 5) 5).input 0 (idleWith (pat 5) 5).len.toNat = true := by decide

theorem witness_hash64s_completes :
    ∃ s : State, s.ready ∧ s.inbox = [] ∧ s.len.toNat ≤ s.bufsz.toNat ∧ Mem.known s.input 0 s.len.toNat = true ∧
      136 ≤ s.seclen.toNat ∧ s.seclen.toNat ≤ 192 ∧ Mem.known s.csec 0 s.seclen.toNat = true :=
  ⟨{ idleWith (pat 5) 5 with seclen := 136, csec := patSecret 136 }, by decide +kernel⟩

theorem witness_unwritten :
    (∃ s : State, s.ready ∧ s.inbox = [] ∧ s.len.toNat ≤ s.bufsz.toNat ∧ Mem.known s.input 0 s.len.toNat = false) ∧
      (∃ s : State, s.ready ∧ s.inbox = [] ∧ s.len.toNat ≤ s.bufsz.toNat ∧ s.seclen.toNat = 136 ∧
        Mem.known s.csec 0 s.seclen.toNat = false) :=
  ⟨⟨idleWith [] 1, by decide⟩, ⟨{ State.reset with seclen := 136 }, by decide +kernel⟩⟩

theorem witness_command_ends :
    (inFlight .longBlock 241).Inv ∧ (inFlight .longBlock 241).status.state = .busy ∧
      (inFlight .longBlock 241).inbox = [] := ⟨longBlock_inv, rfl, rfl⟩

theorem witness_independent_of_history :
    (idleWith (pat 5) 5).ready ∧ ({ idleWith (pat 5) 5 with hacc := 7, result := 9 } : State).ready ∧
      SameOperands (idleWith (pat 5) 5) { idleWith (pat 5) 5 with hacc := 7, result := 9 } ∧
      Mem.known (idleWith (pat 5) 5).input 0 (idleWith (pat 5) 5).len.toNat = true ∧
      (∃ t, exec .hash64 (idleWith (pat 5) 5) = .next t) :=
  ⟨by decide, by decide, ⟨rfl, rfl, rfl, rfl, fun _ => rfl, fun _ => rfl⟩, by decide, ⟨_, rfl⟩⟩

theorem witness_hash_script :
    ({ idleWith (pat 5) 0 with inbox := hashScript 1 5 } : State).ready ∧
      Mem.known (idleWith (pat 5) 0).input 0 (5 : Word).toNat = true := by decide

theorem readable_ksec (m : Mem) (n : Nat) (h1 : n ≤ (BitVec.ofNat 64 n).toNat) (h2 : Mem.known m 0 n = true) :
    (running m n).Readable n .ksec := ⟨h1, h2, rfl, rfl⟩

theorem witness_short_strategies :
    (running [] 0).Readable 0 .ksec ∧ (running (pat 1) 1).Readable 1 .ksec ∧ (running (pat 3) 3).Readable 3 .ksec ∧
      (running (pat 4) 4).Readable 4 .ksec ∧ (running (pat 8) 8).Readable 8 .ksec ∧
      (running (pat 9) 9).Readable 9 .ksec ∧ (running (pat 16) 16).Readable 16 .ksec :=
  ⟨readable_ksec _ _ (by decide) (by decide), readable_ksec _ _ (by decide) (by decide),
    readable_ksec _ _ (by decide) (by decide), readable_ksec _ _ (by decide) (by decide),
    readable_ksec _ _ (by decide) (by decide), readable_ksec _ _ (by decide) (by decide),
    readable_ksec _ _ (by decide) (by decide)⟩

theorem witness_len17_128 : (running (pat 17) 17).Readable 17 .ksec ∧ (running (pat 128) 128).Readable 128 .ksec :=
  ⟨readable_ksec _ _ (by decide) (by decide +kernel), readable_ksec _ _ (by decide) (by decide +kernel)⟩

theorem witness_len129_240 : (running (pat 129) 129).Readable 129 .ksec ∧ (running (pat 240) 240).Readable 240 .ksec :=
  ⟨readable_ksec _ _ (by decide) (by decide +kernel), readable_ksec _ _ (by decide) (by decide +kernel)⟩

theorem witness_long_strategies : (running (pat 241) 241).Readable 241 .ksec :=
  readable_ksec _ _ (by decide) (by decide +kernel)

theorem witness_readable_custom_secret :
    ({ running (pat 9) 9 with csec := patSecret 136 } : State).Readable 9 (.csec 136) :=
  ⟨by decide, by decide, by decide, by decide +kernel⟩

theorem witness_merge_scramble :
    (SecretOperand.csec 136).wf = true ∧
      ({ State.reset with csec := patSecret 136 } : State).secretKnown (.csec 136) 11 64 = true ∧
      ({ State.reset with csec := patSecret 136 } : State).secretKnown (.csec 136) (136 - 64) 64 = true := by
  decide +kernel

theorem witness_scramble_injective : scramble ksecBytes 192 initAcc = scramble ksecBytes 192 initAcc := rfl

theorem witness_unwritten_strategies :
    SecretOperand.ksec.wf = true ∧ SecretOperand.esec.wf = true ∧ (1 : Word).toNat ≤ (running [] 1).latch.len.toNat ∧
      Mem.known (running [] 1).input 0 (1 : Word).toNat = false := by decide

theorem witness_mix16 :
    (0 : Word).toNat + 16 ≤ (running (pat 16) 16).latch.len.toNat ∧ SecretOperand.ksec.wf = true ∧
      176 + 16 ≤ SecretOperand.ksec.size ∧ Mem.known (running (pat 16) 16).input (0 : Word).toNat 16 = true ∧
      (running (pat 16) 16).secretKnown .ksec 176 16 = true ∧
      (running (pat 16) 16).latch.len.toNat < (1 : Word).toNat + 16 := by decide

theorem witness_accumulate :
    (0 : Word).toNat + 64 ≤ (running (pat 64) 64).latch.len.toNat ∧ SecretOperand.esec.wf = true ∧
      128 + 64 ≤ SecretOperand.esec.size ∧ Mem.known (running (pat 64) 64).input (0 : Word).toNat 64 = true ∧
      (running (pat 64) 64).secretKnown .esec 128 64 = true := by decide +kernel

theorem witness_injective : avalanche 5 = avalanche 5 ∧ avalanche64 5 = avalanche64 5 ∧ rrmxmx 5 4 = rrmxmx 5 4 ∧
    4 ≤ (4 : Word).toNat ∧ (8 : Word).toNat ≤ 8 := by decide

theorem witness_mul32 : lowHalf 0xFFFFFFFF00000000 = 0 ∧ highHalf 0x00000000FFFFFFFF = 0 := by decide

theorem witness_reads_cover :
    (0, 1) ∈ inputReads (1 : Word).toNat (lengthClass 1) ∧ 0 < (1 : Word).toNat := by decide

theorem witness_hash_depends :
    (∀ a < (5 : Word).toNat, ksecBytes a = (fun i => if i < 5 then ksecBytes i else 0) a) ∧
      (∀ a < 136, ksecBytes a = (fun i => if i < 136 then ksecBytes i else 0) a) ∧
      (∀ a < 192, ksecBytes a = (fun i => if i < 192 then ksecBytes i else 0) a) ∧ (240 : Word).toNat ≤ 240 :=
  ⟨fun a h => (if_pos (show a < 5 from h)).symm, fun _ h => (if_pos h).symm, fun _ h => (if_pos h).symm, by decide⟩

theorem witness_short_path_readings : 240 < (241 : Word).toNat ∧ 1 ≤ (1 : Word).toNat ∧ (3 : Word).toNat ≤ 3 := by decide

theorem witness_schedule :
    StripeOp.accumulate 177 65 ∈ stripeSchedule 241 136 ∧ StripeOp.accumulate 177 121 ∈ stripeSchedule 241 192 := by
  decide +kernel

theorem witness_invariant_step : (asked .pass).Inv ∧ ∃ t, step (asked .pass) = .next t :=
  ⟨{ reset_inv with }, ⟨_, rfl⟩⟩

theorem witness_stops_of_an_invariant_state :
    (∃ s : State, s.Inv ∧ step s = .fault (.outsideWindow 0x200)) ∧
      ∃ s : State, s.Inv ∧ step s = .refused (.unspecifiedAccess 0x010 .b4) :=
  ⟨⟨asked (.read 0x200 .b1), { reset_inv with }, rfl⟩, ⟨asked (.read 0x010 .b4), { reset_inv with }, rfl⟩⟩

theorem witness_counters :
    (inFlight .mid 17).Inv ∧ (inFlight .longBlock 241).Inv ∧ (inFlight .longTail 241).Inv :=
  ⟨mid_inv, longBlock_inv, longTail_inv⟩

/-- Each counting clause at its bound: the last round and none left, `STR` below and at `nspb`, `BLK` at `nb_blocks`,
`STR` below and at `nstr` (`Z` = 136: `nspb` = 9, blocks of 576 bytes). -/
theorem witness_sequencer :
    (inFlight .check 5).Inv ∧ (inFlight .dispatch 16).Inv ∧ (inFlight .dispatch 241).Inv ∧
      (inFlight .dispatch 241).inbox = [] ∧
      (counting .mid 128 0 0 3 false).Inv ∧
      (counting .mid 240 0 0 0 true).Inv ∧
      (counting .longBlock 577 0 8 0 false).Inv ∧
      (counting .longBlock 577 0 9 0 false).Inv ∧
      (counting .longBlock 577 1 0 0 false).Inv ∧
      (counting .longTail 241 0 2 0 false).Inv ∧
      (counting .longTail 241 0 3 0 false).Inv :=
  ⟨check_inv, dispatch_inv, dispatch_long_inv, rfl,
    counting_inv .mid 128 0 0 3 false rfl
      ⟨by decide, by decide, (by decide : (3 : BitVec 4).toNat < midRounds 128)⟩,
    counting_inv .mid 240 0 0 0 true rfl
      ⟨by decide, by decide, (by decide : (0 : BitVec 4) = BitVec.ofNat 4 (midRounds 240))⟩,
    counting_inv .longBlock 577 0 8 0 false rfl (by simp only [State.progress, counting, inFlight]; decide),
    counting_inv .longBlock 577 0 9 0 false rfl (by simp only [State.progress, counting, inFlight]; decide),
    counting_inv .longBlock 577 1 0 0 false rfl (by simp only [State.progress, counting, inFlight]; decide),
    counting_inv .longTail 241 0 2 0 false rfl (by simp only [State.progress, counting, inFlight]; decide),
    counting_inv .longTail 241 0 3 0 false rfl (by simp only [State.progress, counting, inFlight]; decide)⟩

theorem witness_operand_writes :
    (asked (.write 0x010 .b8 1)).inbox = .write 0x010 .b8 1 :: [] ∧
      (askedBusy (.write 0x028 .b4 1)).inbox = .write 0x028 .b4 1 :: [] ∧
      (asked (.write (0x100 + 184) .b8 1)).inbox = .write (0x100 + 184) .b8 1 :: [] ∧ 184 < 192 ∧
      184 % Width.b8.bytes = 0 := by decide

theorem witness_read_only :
    (asked (.write 0x008 .b4 1)).inbox = .write 0x008 .b4 1 :: [] ∧ 0x0FF % Width.b1.bytes = 0 ∧
      0x1F8 % Width.b8.bytes = 0 ∧ 0x1C0 % Width.b4.bytes = 0 := by decide

theorem witness_reads :
    (asked (.read 0x030 .b8)).inbox = .read 0x030 .b8 :: [] ∧ (asked (.read 0x030 .b8)).status.state ≠ .done ∧
      doneState.status.state = .done ∧ faulted.status.state = .fault := by decide

theorem witness_csec_read :
    ∃ s : State, s.inbox = .read (0x100 + 184) .b8 :: [] ∧ Mem.known s.csec 184 Width.b8.bytes = true :=
  ⟨{ asked (.read (0x100 + 184) .b8) with csec := patSecret 192 }, by decide +kernel⟩

/-- 20_memory.md R58: half a register, inside a register, across a reserved half, misaligned in one, misaligned in
`CSEC`, the last byte of the window, and past it. -/
theorem witness_unspecified_access :
    (∀ m ∈ ([(0x014, .b4), (0x011, .b1), (0x004, .b8), (0x014, .b8), (0x005, .b2), (0x041, .b2), (0x1FF, .b2)] :
        List (Nat × Width)),
      (asked (.read m.1 m.2)).inbox = .read m.1 m.2 :: [] ∧ m.1 < 0x200 ∧
        ¬ (m.1 ∈ [0x010, 0x018, 0x020, 0x030, 0x038] ∧ m.2 = .b8 ∨ m.1 ∈ [0x000, 0x008, 0x028] ∧ m.2 = .b4 ∨
          0x040 ≤ m.1 ∧ m.1 % m.2.bytes = 0 ∨
          (0x004 ≤ m.1 ∧ m.1 < 0x008 ∨ 0x00C ≤ m.1 ∧ m.1 < 0x010 ∨ 0x02C ≤ m.1 ∧ m.1 < 0x030) ∧
            m.1 % m.2.bytes = 0)) ∧
      (asked (.write 0x200 .b1 0)).inbox = .write 0x200 .b1 0 :: [] := by decide

theorem witness_busy_host :
    (askedBusy (.write 0x018 .b8 9)).status.state = .busy ∧
      ∃ t, step (askedBusy (.write 0x018 .b8 9)) = .next t := ⟨rfl, _, rfl⟩

theorem witness_host_store :
    (askedBusy (.store 4 1)).status.state = .busy ∧ (4 : Word).toNat < (askedBusy (.store 4 1)).latch.len.toNat ∧
      (askedBusy (.store 5 1)).latch.len.toNat ≤ (5 : Word).toNat := by decide

/-- 10_state.md R20: the host stores a byte of `IN` and reads it back. -/
theorem test_store_then_load :
    nextIs (andThen (step { State.reset with inbox := [.store 3 0xA5, .load 3] }) step)
      (fun t => decide (t.reads = [.input 3 0xA5] ∧ t.inbox = [] ∧ t.draws = 0)) = true := by decide

theorem witness_busy_load :
    (askedBusy (.load 0)).status.state = .busy ∧ (askedBusy (.load 0)).inbox = .load 0 :: [] ∧
      ∃ t, step (askedBusy (.load 0)) = .next t := ⟨rfl, rfl, _, rfl⟩

theorem witness_host_load :
    ({ idleWith (pat 5) 5 with inbox := [.load 4] } : State).inbox = .load 4 :: [] ∧
      (∃ b, Mem.read? (idleWith (pat 5) 5).input (4 : Word).toNat = some b) ∧
      Mem.read? (idleWith (pat 5) 5).input (5 : Word).toNat = none := ⟨rfl, ⟨_, rfl⟩, by decide⟩

theorem witness_reset : (askedBusy .reset).inbox = .reset :: [] := by decide

end Sys2Proof.Tests
end

/-! PROOFS. The statements of 10_state.md: that every step keeps the invariant, the counters, and what the host's
accesses to `REG` and `IN` do. -/

namespace Sys2Proof.Machine

/-! ### What the internal operations leave -/

/-- `t` differs from `s` at most in what no part of the invariant speaks of: accumulators, value wires, the mark of
`RESULT`, `RESULT`, `FAULTINFO`, and the host's queue, record and count of draws. -/
structure SameControl (s t : State) : Prop where
  status : t.status = s.status
  seed : t.seed = s.seed
  len : t.len = s.len
  bufsz : t.bufsz = s.bufsz
  seclen : t.seclen = s.seclen
  csec : t.csec = s.csec
  phase : t.phase = s.phase
  blk : t.blk = s.blk
  str : t.str = s.str
  rnd : t.rnd = s.rnd
  roundsDone : t.roundsDone = s.roundsDone
  latch : t.latch = s.latch
  nextClass : t.nextClass = s.nextClass
  esec : t.esec = s.esec
  input : t.input = s.input

namespace SameControl

variable {s t u : State}

theorem trans (h : SameControl s t) (h' : SameControl t u) : SameControl s u where
  status := h'.status.trans h.status
  seed := h'.seed.trans h.seed
  len := h'.len.trans h.len
  bufsz := h'.bufsz.trans h.bufsz
  seclen := h'.seclen.trans h.seclen
  csec := h'.csec.trans h.csec
  phase := h'.phase.trans h.phase
  blk := h'.blk.trans h.blk
  str := h'.str.trans h.str
  rnd := h'.rnd.trans h.rnd
  roundsDone := h'.roundsDone.trans h.roundsDone
  latch := h'.latch.trans h.latch
  nextClass := h'.nextClass.trans h.nextClass
  esec := h'.esec.trans h.esec
  input := h'.input.trans h.input

theorem refl (s : State) : SameControl s s := by constructor <;> rfl
theorem mark (b : Bool) (s : State) : SameControl s (mark b s) := by constructor <;> rfl
theorem setOut (v : Word) (s : State) : SameControl s (setOut v s) := by constructor <;> rfl
theorem setAcc (a : Vector Word 8) (s : State) : SameControl s (setAcc a s) := by constructor <;> rfl
theorem setHacc (v : Word) (s : State) : SameControl s (setHacc v s) := by constructor <;> rfl

/-- The progress of the sequencer is a fact about the control state. -/
theorem progress (h : SameControl s t) (hs : s.progress) : t.progress := by
  simpa only [State.progress, State.secretOperand, h.phase, h.latch, h.blk, h.str, h.rnd, h.roundsDone] using hs

/-- So is the whole invariant. -/
theorem inv (h : SameControl s t) (hs : s.Inv) : t.Inv where
  state_of_phase := by rw [h.status, h.phase]; exact hs.state_of_phase
  fcode_fault := by rw [h.status]; exact hs.fcode_fault
  fcode_range := by rw [h.status]; exact hs.fcode_range
  lclass_done := by rw [h.status]; exact hs.lclass_done
  input_wf := by rw [h.input]; exact hs.input_wf
  csec_wf := by rw [h.csec]; exact hs.csec_wf
  csec_range := by rw [h.csec]; exact hs.csec_range
  latched := by rw [h.status, h.latch, h.seed, h.len, h.bufsz, h.seclen]; exact hs.latched
  checks_passed := by rw [h.phase, h.latch]; exact hs.checks_passed
  derived := by rw [h.phase, h.latch, h.esec]; exact hs.derived
  class_selected := by rw [h.phase, h.nextClass, h.latch]; exact hs.class_selected
  progress := h.progress hs.progress

end SameControl

/-- An operation that computes and does not move the sequencer. -/
def KeepsControl (f : State → Result) : Prop := ∀ s t, f s = .next t → SameControl s t

/-- A chain that begins with such an operation goes on from a state of the same control. -/
theorem KeepsControl.andThen_next {f g : State → Result} (hf : KeepsControl f) {s t : State}
    (h : andThen (f s) g = .next t) : ∃ u, SameControl s u ∧ g u = .next t := by
  obtain ⟨u, hu, ht⟩ := andThen_eq_next h
  exact ⟨u, hf s u hu, ht⟩

theorem KeepsControl.andThen {f g : State → Result} (hf : KeepsControl f) (hg : KeepsControl g) :
    KeepsControl fun s => andThen (f s) g := by
  intro s t h
  obtain ⟨u, hu, ht⟩ := hf.andThen_next h
  exact hu.trans (hg u t ht)

theorem keepsControl_next {f : State → State} (hf : ∀ s, SameControl s (f s)) : KeepsControl fun s => .next (f s) := by
  intro s t h
  cases h
  exact hf s

theorem keepsControl_readInput (off k : Nat) : KeepsControl (readInput off k) := by
  intro s t h
  by_cases hk : off + k ≤ s.latch.len.toNat
  · rw [readInput_within hk] at h
    cases h
    exact .mark _ s
  · rw [readInput_outside hk] at h
    cases h

theorem keepsControl_readSecret (S : SecretOperand) (off k : Nat) : KeepsControl (readSecret S off k) := by
  intro s t h
  by_cases hk : S.wf = true ∧ off + k ≤ S.size
  · rw [readSecret_within hk.1 hk.2] at h
    cases h
    exact .mark _ s
  · rw [readSecret_outside hk] at h
    cases h

theorem keepsControl_readInputs (l : List (Nat × Nat)) : KeepsControl (readInputs l) := by
  induction l with
  | nil => exact keepsControl_next .refl
  | cons r l ih => exact (keepsControl_readInput r.1 r.2).andThen ih

theorem keepsControl_readSecrets (S : SecretOperand) (l : List (Nat × Nat)) : KeepsControl (readSecrets S l) := by
  induction l with
  | nil => exact keepsControl_next .refl
  | cons r l ih => exact (keepsControl_readSecret S r.1 r.2).andThen ih

theorem keepsControl_requireClass (c : LenClass) (n : Word) : KeepsControl (requireClass c n) := by
  intro s t h
  cases hc : c.has n
  · rw [requireClass_outside hc] at h
    cases h
  · rw [requireClass_of_has hc] at h
    cases h
    exact .refl s

theorem keepsControl_strategyReads (c : LenClass) (n : Word) (S : SecretOperand) :
    KeepsControl (strategyReads c n S) :=
  (keepsControl_requireClass c n).andThen
    ((keepsControl_readInputs _).andThen (keepsControl_readSecrets S _))

theorem keepsControl_execMix16 (io : Word) (S : SecretOperand) (so : Nat) (seed : Word) :
    KeepsControl (execMix16 io S so seed) :=
  (keepsControl_readInput _ _).andThen
    ((keepsControl_readSecret S so 16).andThen (keepsControl_next fun s => .setOut _ s))

theorem keepsControl_execAccumulate (io : Word) (S : SecretOperand) (so : Nat) :
    KeepsControl (execAccumulate io S so) :=
  (keepsControl_readInput _ _).andThen
    ((keepsControl_readSecret S so _).andThen (keepsControl_next fun s => .setAcc _ s))

theorem keepsControl_execScramble (S : SecretOperand) : KeepsControl (execScramble S) :=
  (keepsControl_readSecret S _ _).andThen (keepsControl_next fun s => .setAcc _ s)

theorem keepsControl_mixInto (io so : Nat) : KeepsControl (mixInto io so) := by
  intro s t h
  obtain ⟨u, hu, ht⟩ := (keepsControl_execMix16 _ _ _ _).andThen_next h
  cases ht
  exact hu.trans (.setHacc _ u)

theorem keepsControl_finisher (s : State) : KeepsControl (exec (finisherInstr s)) := by
  unfold finisherInstr
  split <;> exact keepsControl_next fun s => .setOut _ s

end Sys2Proof.Machine

namespace Sys2Proof.Machine

/-! ### What moves the sequencer -/

variable {s t : State}

/-- `STATE` in a known phase (46_commands.md R216). -/
theorem State.Inv.state_at (h : s.Inv) {p : Phase} (hp : s.phase = p) : s.status.state = p.state := by
  rw [h.state_of_phase, hp]

theorem Phase.checked_of_dispatched {p : Phase} (h : p.dispatched = true) : p.checked = true := by
  revert h; cases p <;> decide

theorem Phase.busy_of_dispatched {p : Phase} (h : p.dispatched = true) : p.state = .busy := by
  revert h; cases p <;> decide

theorem Phase.ne_derive_of_dispatched {p : Phase} (h : p.dispatched = true) : p ≠ .derive := by
  rintro rfl
  cases h

/-- The secret operand of a command whose checks have passed has a size that the rules allow. -/
theorem State.Inv.secret_size (h : s.Inv) (hs : s.phase.checked = true) :
    136 ≤ s.secretOperand.size ∧ s.secretOperand.size ≤ 192 :=
  SecretOperand.size_of_wf (secretOperand_wf (h.checks_passed hs).2)

/-- Outside BUSY the invariant speaks of `STATUS` and the two memories alone. -/
theorem inv_of_rest (hp : s.phase.state ≠ .busy) (hstate : s.status.state = s.phase.state)
    (hfault : s.status.fcode ≠ fcodeNone ↔ s.status.state = .fault) (hrange : s.status.fcode.toNat ≤ 3)
    (hdone : s.status.lclass = lclassNone ↔ s.status.state ≠ .done)
    (hin : Mem.wf s.input) (hcs : Mem.wf s.csec) (hcr : ∀ c ∈ s.csec, c.1 < 192) : s.Inv := by
  have hc : s.phase.checked ≠ true := by revert hp; cases s.phase <;> decide
  have hd : s.phase.dispatched ≠ true := fun hd => hc (Phase.checked_of_dispatched hd)
  have hprogress : s.progress := by
    unfold State.progress
    revert hp
    cases s.phase <;> simp [Phase.state]
  exact {
    state_of_phase := hstate, fcode_fault := hfault, fcode_range := hrange, lclass_done := hdone
    input_wf := hin, csec_wf := hcs, csec_range := hcr
    latched := fun hb => absurd (hstate ▸ hb) hp
    checks_passed := fun h => absurd h hc
    derived := fun h => absurd h hc
    class_selected := fun h => absurd h hd
    progress := hprogress }

theorem LenClass.code_ne_none (c : LenClass) : c.code ≠ lclassNone := by cases c <;> decide

/-- Fault entry with a cause of 60_exceptions.md R230. -/
theorem State.Inv.after_raiseFault (h : s.Inv) {code : BitVec 4} (h0 : code ≠ fcodeNone) (h3 : code.toNat ≤ 3)
    (info : Word) : (raiseFault code info s).Inv :=
  inv_of_rest (by simp [Phase.state]) rfl (by simpa using h0) h3 (by simp) h.input_wf h.csec_wf h.csec_range

theorem State.Inv.after_acknowledge (h : s.Inv) : (acknowledge s).Inv :=
  inv_of_rest (by simp [Phase.state]) rfl (by simp) (by simp) (by simp) h.input_wf h.csec_wf h.csec_range

theorem State.Inv.after_resetEngine (h : Mem.wf s.input) : (resetEngine s).Inv :=
  inv_of_rest (by simp [State.reset, Phase.state]) rfl (by simp [State.reset]) (by simp [State.reset])
    (by simp [State.reset]) h List.Pairwise.nil (by simp [State.reset])

/-- Completion of a command whose class has been selected. -/
theorem State.Inv.after_complete (h : s.Inv) (hs : s.phase.dispatched = true) : (complete s).Inv :=
  inv_of_rest (by simp [Phase.state]) rfl (by simp) (by simp)
    (by simpa [h.class_selected hs] using LenClass.code_ne_none _) h.input_wf h.csec_wf h.csec_range

/-- Acceptance latches the operand registers (46_commands.md R210). -/
theorem State.Inv.after_accept (h : s.Inv) (cmd : HashCommand) : (accept cmd s).Inv :=
  { h with
    state_of_phase := rfl
    fcode_fault := by simp
    fcode_range := by simp
    lclass_done := by simp
    latched := fun _ => ⟨rfl, rfl, rfl, rfl⟩
    checks_passed := fun hc => by cases hc
    derived := fun hc => by cases hc
    class_selected := fun hd => by cases hd
    progress := trivial }

/-- Between the phases after DISPATCH only the progress is to be shown. -/
theorem State.Inv.after_goto (h : s.Inv) (hs : s.phase.dispatched = true) {p : Phase} (hp : p.dispatched = true)
    (hq : (goto p s).progress) : (goto p s).Inv :=
  { h with
    state_of_phase := by
      rw [goto_status, h.state_of_phase, goto_phase, Phase.busy_of_dispatched hs, Phase.busy_of_dispatched hp]
    checks_passed := fun _ => h.checks_passed (Phase.checked_of_dispatched hs)
    derived := fun _ _ => h.derived (Phase.checked_of_dispatched hs) (Phase.ne_derive_of_dispatched hs)
    class_selected := fun _ => h.class_selected hs
    progress := hq }

/-! ### P_CHECK, P_DERIVE and P_DISPATCH -/

theorem State.Inv.after_checkPhase (h : s.Inv) (hs : s.phase = .check) (ht : checkPhase s = .next t) : t.Inv := by
  have hbusy : s.status.state = .busy := h.state_at hs
  unfold checkPhase at ht
  split at ht
  · next hc =>
    split at ht
    · cases ht
      exact h.after_raiseFault (by decide) (by decide) _
    · next hlen =>
      cases ht
      exact { h with
        state_of_phase := hbusy
        checks_passed := fun _ => ⟨by simpa [BitVec.lt_def] using hlen, fun hc' => by simp [hc] at hc'⟩
        derived := fun _ hne => absurd rfl hne
        class_selected := fun hd => by cases hd
        progress := hc }
  · next hc =>
    split at ht
    · cases ht
      exact h.after_raiseFault (by decide) (by decide) _
    · next hz =>
      split at ht
      · cases ht
        exact h.after_raiseFault (by decide) (by decide) _
      · next hlen =>
        cases ht
        exact { h with
          state_of_phase := hbusy
          checks_passed := fun _ => ⟨by simpa [BitVec.lt_def] using hlen, fun _ => by simpa using hz⟩
          derived := fun _ _ hc' => by simp [hc] at hc'
          class_selected := fun hd => by cases hd
          progress := trivial }

theorem State.Inv.after_derivePhase (h : s.Inv) (hs : s.phase = .derive) (ht : derivePhase s = .next t) : t.Inv := by
  have hbusy : s.status.state = .busy := h.state_at hs
  cases ht
  exact { h with
    state_of_phase := hbusy
    checks_passed := fun _ => h.checks_passed (by rw [hs]; rfl)
    derived := fun _ _ _ => rfl
    class_selected := fun hd => by cases hd
    progress := trivial }

/-- What DISPATCH leaves of its class, for the phase `p` that it routes to. -/
def route (p : Phase) (s : State) : State := { s with nextClass := (lengthClass s.latch.len).code, phase := p }

theorem State.Inv.after_route (h : s.Inv) (hs : s.phase = .dispatch) {p : Phase} (hp : p.dispatched = true)
    (hq : (route p s).progress) : (route p s).Inv :=
  { h with
    state_of_phase := (h.state_at hs).trans (Phase.busy_of_dispatched hp).symm
    checks_passed := fun _ => h.checks_passed (by rw [hs]; rfl)
    derived := fun _ _ => h.derived (by rw [hs]; rfl) (by simp [hs])
    class_selected := fun _ => rfl
    progress := hq }

theorem lengthClass_bounds {n : Word} {c : LenClass} (h : lengthClass n = c) :
    c.lenMin ≤ n.toNat ∧ n.toNat ≤ c.lenMax := by
  simpa [LenClass.has, h] using lengthClass_has n

/-- P_DISPATCH by the length (Table PHASE of 46_commands.md R216). -/
theorem dispatchPhase_eq (s : State) :
    dispatchPhase s = .next (
      if s.latch.len.toNat ≤ 16 then route .short s
      else if s.latch.len.toNat ≤ 240 then route .mid (startRounds s)
      else route .longBlock (setBlock 0 0 (setAcc initAcc s))) := by
  cases hl : lengthClass s.latch.len with
  | len0 | len1_3 | len4_8 | len9_16 =>
    have hn := lengthClass_bounds hl
    simp only [LenClass.lenMin, LenClass.lenMax] at hn
    rw [if_pos (by omega)]
    simp [dispatchPhase, exec, execDispatch, routePhase, route, hl]
  | len17_128 | len129_240 =>
    have hn := lengthClass_bounds hl
    simp only [LenClass.lenMin, LenClass.lenMax] at hn
    rw [if_neg (by omega), if_pos (by omega)]
    simp [dispatchPhase, exec, execDispatch, routePhase, route, startRounds, hl]
  | long =>
    have hn := lengthClass_bounds hl
    simp only [LenClass.lenMin, LenClass.lenMax] at hn
    rw [if_neg (by omega), if_neg (by omega)]
    simp [dispatchPhase, exec, execDispatch, execInitacc, routePhase, route, setBlock, setAcc, hl]

/-- The rounds of the two mid strategies, at least one and as many as `RND` can number (R150, R151). -/
theorem midRounds_bounds {n : Word} (h1 : 17 ≤ n.toNat) (h2 : n.toNat ≤ 240) : 0 < midRounds n ∧ midRounds n ≤ 16 := by
  simp only [midRounds, roundsLen17_128, roundsLen129_240]
  split <;> omega

theorem State.Inv.after_dispatchPhase (h : s.Inv) (hs : s.phase = .dispatch) (ht : dispatchPhase s = .next t) :
    t.Inv := by
  have hmid : (startRounds s).Inv := { h with progress := by simp [State.progress, hs] }
  have hlong : (setBlock 0 0 (setAcc initAcc s)).Inv := { h with progress := by simp [State.progress, hs] }
  rw [dispatchPhase_eq] at ht
  cases ht
  split_ifs with h1 h2
  · exact h.after_route hs rfl h1
  · have h17 : 17 ≤ s.latch.len.toNat := by omega
    exact hmid.after_route hs rfl ⟨h17, h2, (midRounds_bounds h17 h2).1⟩
  · have h241 : 241 ≤ s.latch.len.toNat := by omega
    exact hlong.after_route hs rfl ⟨h241, Nat.zero_le _, Nat.zero_le _, fun _ => rfl⟩

/-! ### P_MID -/

/-- One round is counted on the state that its MIX16 leave (R150, R151). -/
theorem roundLen17_128_next (h : roundLen17_128 s = .next t) : ∃ u, SameControl s u ∧ t = countRound u := by
  obtain ⟨u, hu, h⟩ := (keepsControl_mixInto _ _).andThen_next h
  obtain ⟨v, hv, h⟩ := (keepsControl_mixInto _ _).andThen_next h
  cases h
  exact ⟨v, hu.trans hv, rfl⟩

theorem roundLen129_240_next (h : roundLen129_240 s = .next t) : ∃ u, SameControl s u ∧ t = countRound u := by
  unfold roundLen129_240 at h
  split_ifs at h
  all_goals
    obtain ⟨u, hu, h⟩ := (keepsControl_mixInto _ _).andThen_next h
    cases h
  on_goal 2 => exact ⟨_, hu.trans ((SameControl.setOut _ u).trans (.setHacc _ _)), rfl⟩
  all_goals exact ⟨u, hu, rfl⟩

/-- In P_MID the length is one of a mid strategy, and `RND` numbers a round or has counted them all. -/
theorem State.Inv.mid_progress (h : s.Inv) (hs : s.phase = .mid) :
    17 ≤ s.latch.len.toNat ∧ s.latch.len.toNat ≤ 240 ∧
      if s.roundsDone then s.rnd = BitVec.ofNat 4 (midRounds s.latch.len) else s.rnd.toNat < midRounds s.latch.len := by
  simpa only [State.progress, hs] using h.progress

/-- Counting a round that remained: either none remains and `RND` has counted them all, or `RND` is the next one. -/
theorem State.Inv.after_countRound (h : s.Inv) (hs : s.phase = .mid) (hr : s.roundsDone = false) :
    (countRound s).Inv := by
  obtain ⟨h17, h240, hrnd⟩ := h.mid_progress hs
  have hmax := (midRounds_bounds h17 h240).2
  rw [hr, if_neg Bool.false_ne_true] at hrnd
  refine { h with progress := ?_ }
  simp only [State.progress, countRound_phase, hs, countRound_latch, countRound_rnd, countRound_roundsDone,
    decide_eq_true_eq]
  refine ⟨h17, h240, ?_⟩
  split
  · next hlast =>
    rw [← hlast]
    apply BitVec.eq_of_toNat_eq
    simp
  · next hmore =>
    rw [BitVec.toNat_add]
    change (s.rnd.toNat + 1) % 2 ^ 4 < _
    omega

theorem State.Inv.after_midPhase (h : s.Inv) (hs : s.phase = .mid) (ht : midPhase s = .next t) : t.Inv := by
  have hd : s.phase.dispatched = true := by rw [hs]; rfl
  have hleave : (goto .finish s).Inv := h.after_goto hd rfl trivial
  have hround : (∃ u, SameControl s u ∧ t = countRound u) → s.roundsDone = false → t.Inv := by
    rintro ⟨u, hu, rfl⟩ hr
    exact (hu.inv h).after_countRound (hu.phase.trans hs) (hu.roundsDone.trans hr)
  unfold midPhase at ht
  split at ht
  · cases ht
    exact hleave
  · next hr =>
    rw [Bool.not_eq_true] at hr
    cases hl : lengthClass s.latch.len with
    | len17_128 =>
      rw [hl] at ht
      exact hround (roundLen17_128_next ht) hr
    | len129_240 =>
      rw [hl] at ht
      exact hround (roundLen129_240_next ht) hr
    | len0 | len1_3 | len4_8 | len9_16 | long =>
      rw [hl] at ht
      cases ht
      exact hleave

/-! ### The phases of LONG -/

theorem stripeOf_next {b : Nat} (h : stripeOf b s = .next t) :
    ∃ u, SameControl s u ∧ t = setBlock u.blk (u.str + 1) u := by
  obtain ⟨u, hu, h⟩ := (keepsControl_execAccumulate _ _ _).andThen_next h
  cases h
  exact ⟨u, hu, rfl⟩

@[simp] theorem secretOperand_setBlock (b : Word) (k : BitVec 5) :
    (setBlock b k s).secretOperand = s.secretOperand := rfl

theorem SameControl.secretOperand (h : SameControl s t) : t.secretOperand = s.secretOperand := by
  simp only [State.secretOperand, h.latch]

/-- `STR` counts the stripes of a block in its 5 bits. -/
theorem str_succ_toNat {k : BitVec 5} {n : Nat} (hk : k.toNat < n) (hn : n ≤ 16) : (k + 1).toNat = k.toNat + 1 := by
  rw [BitVec.toNat_add]
  change (k.toNat + 1) % 2 ^ 5 = _
  omega

/-- In P_LONG_BLOCK `BLK` and `STR` stay within the full blocks and their stripes (44_stripe_engine.md R173). -/
theorem State.Inv.longBlock_progress (h : s.Inv) (hs : s.phase = .longBlock) :
    241 ≤ s.latch.len.toNat ∧ s.blk.toNat ≤ fullBlocks s.latch.len.toNat s.secretOperand.size ∧
      s.str.toNat ≤ stripesPerBlock s.secretOperand.size ∧
      (s.blk.toNat = fullBlocks s.latch.len.toNat s.secretOperand.size → s.str = 0) := by
  simpa only [State.progress, hs] using h.progress

theorem State.Inv.longTail_progress (h : s.Inv) (hs : s.phase = .longTail) :
    241 ≤ s.latch.len.toNat ∧ s.str.toNat ≤ tailStripes s.latch.len.toNat s.secretOperand.size := by
  simpa only [State.progress, hs] using h.progress

/-- The next stripe of a full block that has one. -/
theorem State.Inv.after_nextStripe_block (h : s.Inv) (hs : s.phase = .longBlock)
    (hb : s.blk.toNat < fullBlocks s.latch.len.toNat s.secretOperand.size)
    (hk : s.str.toNat < stripesPerBlock s.secretOperand.size) : (setBlock s.blk (s.str + 1) s).Inv := by
  obtain ⟨h241, hblk, -, -⟩ := h.longBlock_progress hs
  have hz := h.secret_size (by rw [hs]; rfl)
  have hstr := str_succ_toNat hk (stripesPerBlock_bounds hz.1 hz.2).2.1
  refine { h with progress := ?_ }
  simp only [State.progress, setBlock_phase, hs, setBlock_latch, secretOperand_setBlock, setBlock_blk, setBlock_str,
    hstr]
  exact ⟨h241, hblk, hk, fun hfull => absurd hfull (Nat.ne_of_lt hb)⟩

/-- The next full block, from its first stripe on. -/
theorem State.Inv.after_nextBlock (h : s.Inv) (hs : s.phase = .longBlock)
    (hb : s.blk.toNat < fullBlocks s.latch.len.toNat s.secretOperand.size) : (setBlock (s.blk + 1) 0 s).Inv := by
  obtain ⟨h241, -, -, -⟩ := h.longBlock_progress hs
  have hblk : (s.blk + 1).toNat ≤ s.blk.toNat + 1 := by
    rw [BitVec.toNat_add]
    exact Nat.mod_le _ _
  refine { h with progress := ?_ }
  simp only [State.progress, setBlock_phase, hs, setBlock_latch, secretOperand_setBlock, setBlock_blk, setBlock_str]
  exact ⟨h241, hblk.trans hb, Nat.zero_le _, fun _ => trivial⟩

theorem State.Inv.after_longBlockPhase (h : s.Inv) (hs : s.phase = .longBlock) (ht : longBlockPhase s = .next t) :
    t.Inv := by
  unfold longBlockPhase at ht
  split_ifs at ht with hb hk
  · obtain ⟨u, hu, rfl⟩ := stripeOf_next ht
    exact (hu.inv h).after_nextStripe_block (hu.phase.trans hs) (by rwa [hu.blk, hu.latch, hu.secretOperand])
      (by rwa [hu.str, hu.secretOperand])
  · obtain ⟨u, hu, ht⟩ := (keepsControl_execScramble _).andThen_next ht
    cases ht
    exact (hu.inv h).after_nextBlock (hu.phase.trans hs) (by rwa [hu.blk, hu.latch, hu.secretOperand])
  · obtain ⟨h241, hblk, -, hfull⟩ := h.longBlock_progress hs
    have h0 : s.str = 0 := hfull (by omega)
    cases ht
    exact h.after_goto (by rw [hs]; rfl) rfl ⟨h241, by simp [h0]⟩

/-- The next stripe of the last, partial block, where one is left. -/
theorem State.Inv.after_nextStripe_tail (h : s.Inv) (hs : s.phase = .longTail)
    (hk : s.str.toNat < tailStripes s.latch.len.toNat s.secretOperand.size) :
    (setBlock s.blk (s.str + 1) s).Inv := by
  obtain ⟨h241, -⟩ := h.longTail_progress hs
  have hz := h.secret_size (by rw [hs]; rfl)
  have hstr := str_succ_toNat hk
    ((tailStripes_lt hz.1 hz.2).le.trans (stripesPerBlock_bounds hz.1 hz.2).2.1)
  refine { h with progress := ?_ }
  simp only [State.progress, setBlock_phase, hs, setBlock_latch, secretOperand_setBlock, setBlock_str, hstr]
  exact ⟨h241, hk⟩

theorem State.Inv.after_longTailPhase (h : s.Inv) (hs : s.phase = .longTail) (ht : longTailPhase s = .next t) :
    t.Inv := by
  unfold longTailPhase at ht
  split_ifs at ht with hk
  · obtain ⟨u, hu, rfl⟩ := stripeOf_next ht
    exact (hu.inv h).after_nextStripe_tail (hu.phase.trans hs) (by rwa [hu.str, hu.latch, hu.secretOperand])
  · cases ht
    exact h.after_goto (by rw [hs]; rfl) rfl (h.longTail_progress hs).1

/-! ### P_SHORT, P_LONG_LAST, P_MERGE and P_FINISH -/

theorem State.Inv.after_shortPhase (h : s.Inv) (hs : s.phase = .short) (ht : shortPhase s = .next t) : t.Inv := by
  obtain ⟨u, hu, ht⟩ := (keepsControl_strategyReads _ _ _).andThen_next ht
  cases ht
  exact ((hu.trans (.setOut _ u)).inv h).after_goto (by simp [hu.phase, hs, Phase.dispatched]) rfl trivial

theorem State.Inv.after_longLastPhase (h : s.Inv) (hs : s.phase = .longLast) (ht : longLastPhase s = .next t) :
    t.Inv := by
  have h241 : 241 ≤ s.latch.len.toNat := by simpa only [State.progress, hs] using h.progress
  obtain ⟨u, hu, ht⟩ := (keepsControl_execAccumulate _ _ _).andThen_next ht
  cases ht
  exact (hu.inv h).after_goto (by simp [hu.phase, hs, Phase.dispatched]) rfl
    (by simpa [State.progress, hu.latch] using h241)

theorem State.Inv.after_mergePhase (h : s.Inv) (hs : s.phase = .merge) (ht : mergePhase s = .next t) : t.Inv := by
  obtain ⟨u, hu, ht⟩ := (keepsControl_readSecret _ _ _).andThen_next ht
  cases ht
  exact ((hu.trans (.setHacc _ u)).inv h).after_goto (by simp [hu.phase, hs, Phase.dispatched]) rfl trivial

theorem State.Inv.after_finishPhase (h : s.Inv) (hs : s.phase = .finish) (ht : finishPhase s = .next t) : t.Inv := by
  obtain ⟨u, hu, ht⟩ := (keepsControl_finisher s).andThen_next ht
  cases ht
  exact (hu.inv h).after_complete (by rw [hu.phase, hs]; rfl)

/-- Every transition of Table PHASE keeps the invariant (46_commands.md R216). -/
theorem State.Inv.after_engineMove (h : s.Inv) (ht : engineMove s = .next t) : t.Inv := by
  unfold engineMove at ht
  cases hs : s.phase <;> rw [hs] at ht
  case idle | done | fault => cases ht; exact h
  case check => exact h.after_checkPhase hs ht
  case derive => exact h.after_derivePhase hs ht
  case dispatch => exact h.after_dispatchPhase hs ht
  case short => exact h.after_shortPhase hs ht
  case mid => exact h.after_midPhase hs ht
  case longBlock => exact h.after_longBlockPhase hs ht
  case longTail => exact h.after_longTailPhase hs ht
  case longLast => exact h.after_longLastPhase hs ht
  case merge => exact h.after_mergePhase hs ht
  case finish => exact h.after_finishPhase hs ht

end Sys2Proof.Machine

namespace Sys2Proof.Machine

variable {s t : State}

/-! ### The host's accesses to `REG` -/

theorem noAccess_ne_next {off : Nat} {w : Width} : noAccess off w ≠ .next t := by
  unfold noAccess
  split <;> nofun

/-- A write of an operand counts except in BUSY (10_state.md R25). -/
theorem unlessBusy_eq (s u : State) : unlessBusy s u = .next (if s.status.state = .busy then s else u) := by
  cases h : s.status.state <;> simp [unlessBusy, h]

theorem decodeWord_ok {w : Half} {i : Instr} (h : decodeWord w = .ok i) :
    i = .nop ∨ i = .hash64 ∨ i = .hash64s ∨ i = .clear := by
  unfold decodeWord at h
  split_ifs at h <;> cases h <;> simp

/-- What a write to `CMD` can do to the state (Table ACCEPT of 46_commands.md R214). -/
inductive CommandEffect (w : Half) (s : State) : State → Prop where
  | ignored : CommandEffect w s s
  | accepted (cmd : HashCommand) (h : s.status.state ≠ .busy) : CommandEffect w s (accept cmd s)
  | acknowledged (h : s.status.state ≠ .busy) : CommandEffect w s (acknowledge s)
  | illegal (h : s.status.state ≠ .busy) :
    CommandEffect w s (raiseFault fcodeIllegalCommand (w.setWidth 64) s)

theorem issueHash_effect {cmd : HashCommand} {w : Half} (h : issueHash cmd s = .next t) : CommandEffect w s t := by
  unfold issueHash at h
  split at h <;> cases h
  case h_1 hs | h_2 hs => exact .accepted cmd (by simp [hs])
  all_goals exact .ignored

theorem execClear_effect {w : Half} (h : execClear s = .next t) : CommandEffect w s t := by
  unfold execClear at h
  split at h <;> cases h
  case h_4 => exact .ignored
  case h_1 hs | h_2 hs | h_3 hs => exact .acknowledged (by simp [hs])

theorem illegalCommand_effect {w : Half} (h : illegalCommand w s = .next t) : CommandEffect w s t := by
  unfold illegalCommand at h
  split at h <;> cases h
  case h_1 hs | h_2 hs => exact .illegal (by simp [hs])
  all_goals exact .ignored

theorem issueCommand_effect {w : Half} (h : issueCommand w s = .next t) : CommandEffect w s t := by
  unfold issueCommand at h
  split at h
  · next i hi =>
    obtain rfl | rfl | rfl | rfl := decodeWord_ok hi
    · cases h
      exact .ignored
    · exact issueHash_effect h
    · exact issueHash_effect h
    · exact execClear_effect h
  · exact illegalCommand_effect h

/-- In BUSY every write to `CMD` is ignored. -/
theorem CommandEffect.eq_of_busy {w : Half} (h : CommandEffect w s t) (hb : s.status.state = .busy) : t = s := by
  cases h with
  | ignored => rfl
  | accepted _ hne | acknowledged hne | illegal hne => exact absurd hb hne

theorem State.Inv.after_command {w : Half} (h : s.Inv) (ht : CommandEffect w s t) : t.Inv := by
  cases ht with
  | ignored => exact h
  | accepted cmd => exact h.after_accept cmd
  | acknowledged => exact h.after_acknowledge
  | illegal => exact h.after_raiseFault (by decide) (by decide) _

/-- The accesses to `CSEC` (20_memory.md R58): naturally aligned, and a byte of `CSEC` the first they reach. -/
theorem regTarget_csec {off k : Nat} {w : Width} :
    regTarget off w = some (.csec k) ↔ off = 0x100 + k ∧ k < 192 ∧ k % w.bytes = 0 := by
  have haligned : (0x100 + k) % w.bytes = k % w.bytes := by cases w <;> simp only [Width.bytes] <;> omega
  simp only [regTarget, ite_eq_iff, Option.some.injEq, reduceCtorEq, RegTarget.csec.injEq, and_false, false_or,
    or_false, not_not, ne_eq]
  constructor
  · rintro ⟨-, -, -, -, -, -, -, -, ha, hc, hk⟩
    obtain rfl : off = 0x100 + k := by omega
    exact ⟨rfl, by omega, haligned ▸ ha⟩
  · rintro ⟨rfl, hk, ha⟩
    omega

/-- The naturally aligned accesses to the reserved ranges above the registers and above `CSEC` (R58). -/
theorem regTarget_reserved {off : Nat} {w : Width} (ha : off % w.bytes = 0)
    (h : 0x040 ≤ off ∧ off < 0x100 ∨ 0x1C0 ≤ off ∧ off < 0x200) : regTarget off w = some .reserved := by
  simp only [regTarget]
  iterate 8 rw [if_neg (by omega)]
  rw [if_neg (by omega), if_neg (by omega), if_pos h]

/-- In BUSY no write to `REG` does anything (10_state.md R25). -/
theorem hostWrite_of_busy {off : Nat} {w : Width} {v : Word} (hb : s.status.state = .busy)
    (h : hostWrite off w v s = .next t) : t = s := by
  unfold hostWrite at h
  split at h
  case h_1 => exact (issueCommand_effect h).eq_of_busy hb
  case h_2 | h_3 | h_4 | h_5 | h_6 =>
    rw [unlessBusy_eq, if_pos hb] at h
    cases h
    rfl
  case h_7 | h_8 | h_9 | h_10 =>
    cases h
    rfl
  case h_11 => exact absurd h noAccess_ne_next

/-- A write that only counts outside BUSY keeps the invariant if it does so there. -/
theorem State.Inv.after_unlessBusy {u : State} (h : s.Inv) (hu : s.status.state ≠ .busy → u.Inv)
    (ht : unlessBusy s u = .next t) : t.Inv := by
  rw [unlessBusy_eq] at ht
  cases ht
  split_ifs with hb
  · exact h
  · exact hu hb

/-- A write to bytes of `CSEC` within its 192. -/
theorem State.Inv.after_writeCsec (h : s.Inv) (v : Word) {k n : Nat} (hn : k + n ≤ 192) :
    State.Inv { s with csec := Mem.writeBytes s.csec k v n } :=
  { h with
    csec_wf := Mem.writeBytes_wf h.csec_wf k v n
    csec_range := fun c hc => by
      rcases Mem.mem_writeBytes hc with ⟨-, hlt⟩ | hc
      · omega
      · exact h.csec_range c hc }

/-- A naturally aligned access that begins in `CSEC` ends there. -/
theorem csec_access_ends {k : Nat} {w : Width} (hk : k < 192) (ha : k % w.bytes = 0) : k + w.bytes ≤ 192 := by
  cases w <;> simp only [Width.bytes] at ha ⊢ <;> omega

theorem State.Inv.after_hostWrite {off : Nat} {w : Width} {v : Word} (h : s.Inv) (ht : hostWrite off w v s = .next t) :
    t.Inv := by
  unfold hostWrite at ht
  split at ht
  case h_1 => exact h.after_command (issueCommand_effect ht)
  case h_2 | h_3 | h_4 | h_5 =>
    refine h.after_unlessBusy (fun hb => ?_) ht
    exact { h with latched := fun hb' => absurd hb' hb }
  case h_6 k hk =>
    obtain ⟨-, hk, ha⟩ := regTarget_csec.1 hk
    exact h.after_unlessBusy (fun _ => h.after_writeCsec v (csec_access_ends hk ha)) ht
  case h_7 | h_8 | h_9 | h_10 =>
    cases ht
    exact h
  case h_11 => exact absurd ht noAccess_ne_next

/-- A read of `REG` changes at most the record of reads and the count of draws (10_state.md R25). -/
theorem hostRead_next {off : Nat} {w : Width} (h : hostRead off w s = .next t) :
    t = { s with reads := t.reads, draws := t.draws } := by
  unfold hostRead at h
  split at h
  · cases h
    rfl
  · exact absurd h noAccess_ne_next

theorem State.Inv.after_hostRead {off : Nat} {w : Width} (h : s.Inv) (ht : hostRead off w s = .next t) : t.Inv := by
  rw [hostRead_next ht]
  exact { h with }

/-! ### The invariant -/

theorem State.Inv.after_hostWait {rest : List HostMove} (h : s.Inv) (ht : hostWait rest s = .next t) : t.Inv := by
  unfold hostWait at ht
  have hi (m : List HostMove) : State.Inv { s with inbox := m } := { h with }
  split at ht
  · exact (hi _).after_engineMove ht
  all_goals exact (hi _).after_hostRead ht

/-- A store to `IN` keeps its canonical form. -/
theorem State.Inv.after_hostStore (h : s.Inv) (off : Word) (b : Byte) : (hostStore off b s).Inv :=
  { h with input_wf := Mem.write_wf h.input_wf _ _ }

theorem State.Inv.after_hostLoad (h : s.Inv) (off : Word) : (hostLoad off s).Inv := { h with }

/-- Whoever moves keeps the invariant. -/
theorem State.Inv.after_step (h : s.Inv) (ht : step s = .next t) : t.Inv := by
  have hi (m : List HostMove) : State.Inv { s with inbox := m } := { h with }
  unfold step turn at ht
  split at ht
  case h_1 => exact h.after_engineMove ht
  case h_2 => exact (hi _).after_engineMove ht
  case h_3 => exact (hi _).after_hostWrite ht
  case h_4 => exact (hi _).after_hostRead ht
  case h_5 =>
    cases ht
    exact (hi _).after_hostStore _ _
  case h_6 =>
    cases ht
    exact (hi _).after_hostLoad _
  case h_7 => exact h.after_hostWait ht
  case h_8 =>
    cases ht
    exact .after_resetEngine h.input_wf

/-- Settles O48: host accesses, reset and each transition of Table PHASE apart. -/
theorem everyStepKeepsTheInvariant : Obligations.EveryStepKeepsTheInvariant := fun _ _ h ht => h.after_step ht

/-- Settles O47: `State.reset` is what the reset event makes of it. -/
theorem resetIsWellFormed : Obligations.ResetIsWellFormed :=
  State.Inv.after_resetEngine (s := State.reset) List.Pairwise.nil

/-- The full blocks of a length, in blocks of at least 9 stripes (44_stripe_engine.md R173). -/
theorem fullBlocks_le {n Z : Nat} (hn : n < 2 ^ 64) (h1 : 136 ≤ Z) (h2 : Z ≤ 192) :
    fullBlocks n Z ≤ (2 ^ 64 - 2) / 576 := by
  have hblock : 576 ≤ blockLen Z := by
    have := (stripesPerBlock_bounds h1 h2).1
    rw [blockLen_eq]
    omega
  calc fullBlocks n Z ≤ (n - 1) / 576 := Nat.div_le_div_left hblock (by omega)
    _ ≤ (2 ^ 64 - 2) / 576 := Nat.div_le_div_right (by omega)

/-- Settles O50: the progress that the invariant states, with the bounds of the loops as numbers. -/
theorem countersStayInRange : Obligations.CountersStayInRange := by
  intro s h
  refine ⟨fun hs hr => ?_, fun hs => ?_, fun hs => ?_⟩
  · obtain ⟨-, -, hrnd⟩ := h.mid_progress hs
    simp only [hr, Bool.false_eq_true, if_false, midRounds, roundsLen17_128, roundsLen129_240] at hrnd
    split at hrnd <;> constructor <;> intro hn <;> omega
  · obtain ⟨-, hblk, hstr, -⟩ := h.longBlock_progress hs
    obtain ⟨h1, h2⟩ := h.secret_size (by rw [hs]; rfl)
    exact ⟨hblk.trans (fullBlocks_le s.latch.len.isLt h1 h2), hstr.trans (stripesPerBlock_bounds h1 h2).2.1⟩
  · obtain ⟨-, hstr⟩ := h.longTail_progress hs
    obtain ⟨h1, h2⟩ := h.secret_size (by rw [hs]; rfl)
    have := tailStripes_lt (n := s.latch.len.toNat) h1 h2
    have := (stripesPerBlock_bounds h1 h2).2.1
    omega

end Sys2Proof.Machine

namespace Sys2Proof.Machine

variable {s t : State}

/-! ### Host writes -/

/-- A write to bytes of `CSEC`. -/
theorem hostWrite_csec {k : Nat} {w : Width} (hk : k < 192) (ha : k % w.bytes = 0) (v : Word) (s : State) :
    hostWrite (0x100 + k) w v s = unlessBusy s { s with csec := Mem.writeBytes s.csec k v w.bytes } := by
  simp only [hostWrite, regTarget_csec.2 ⟨rfl, hk, ha⟩]

theorem hostWrite_reserved {off : Nat} {w : Width} (h : regTarget off w = some .reserved) (v : Word) (s : State) :
    hostWrite off w v s = .next s := by
  simp only [hostWrite, h]

/-- Settles O52: register by register, by whether the state is BUSY. -/
theorem operandWritesByState : Obligations.OperandWritesByState := by
  intro s v rest
  refine ⟨fun h => ?_, fun h => ?_, fun h => ?_, fun h => ?_, fun k w hk ha h => ?_⟩
  -- A register's offset and width decode by computation; those of `CSEC` by `regTarget_csec`.
  iterate 4
    · rw [step_of_write h]
      refine (unlessBusy_eq _ _).trans ?_
      by_cases hb : s.status.state = .busy <;> simp [hb, lowHalf]
  · rw [step_of_write h, hostWrite_csec hk ha, unlessBusy_eq]
    by_cases hb : s.status.state = .busy
    · exact ⟨s.csec, by simp [hb], by simp [hb]⟩
    · refine ⟨_, by rw [if_neg hb], fun a => ?_⟩
      simp only [Mem.read?_writeBytes, byteOf, ne_eq, hb, not_false_eq_true, true_and]

/-- Settles O53: each of these accesses reaches a register that no write sets. -/
theorem readOnlyRegistersIgnoreWrites : Obligations.ReadOnlyRegistersIgnoreWrites := by
  intro s off w v rest h hoff
  rw [step_of_write h]
  obtain ⟨rfl, rfl⟩ | ⟨rfl, rfl⟩ | ⟨rfl, rfl⟩ | ⟨ha, hr⟩ := hoff
  · rfl
  · rfl
  · rfl
  · exact hostWrite_reserved (regTarget_reserved ha hr) v _

/-- Settles O58: in BUSY a write is ignored, and a read changes its record and the count of draws. -/
theorem hostAccessesLeaveBusyEngineAlone : Obligations.HostAccessesLeaveBusyEngineAlone := by
  rintro s t m rest hb h (⟨off, w, v, rfl⟩ | ⟨off, w, rfl⟩ | ⟨off, rfl⟩) ht
  · rw [step_of_write h] at ht
    rw [hostWrite_of_busy (s := { s with inbox := rest }) hb ht]
  · rw [step_of_read h] at ht
    exact hostRead_next ht
  · rw [step_of_load h] at ht
    cases ht
    rfl

/-! ### Host reads -/

theorem hostRead_of_target {off : Nat} {w : Width} {r : RegTarget} (h : regTarget off w = some r) (s : State) :
    hostRead off w s = .next { s with
      reads := .reg off w (readValue r w s).1 :: s.reads
      draws := if (readValue r w s).2 then s.draws + 1 else s.draws } := by
  simp only [hostRead, h]

/-- A read whose value is no free one leaves the draws; a free one is one draw. -/
theorem step_of_read_value {off : Nat} {w : Width} {rest : List HostMove} {r : RegTarget} {x : Word} {b : Bool}
    (h : s.inbox = .read off w :: rest) (hr : regTarget off w = some r)
    (hx : readValue r w { s with inbox := rest } = (x, b)) :
    step s = .next { s with inbox := rest, reads := .reg off w x :: s.reads, draws := s.draws + b.toNat } := by
  rw [step_of_read h, hostRead_of_target hr, hx]
  cases b <;> rfl

/-- Settles O54: the register that each access reaches and its value. -/
theorem readsReturnRegisters : Obligations.ReadsReturnRegisters := by
  intro s off w rest x d h hoff
  obtain ⟨rfl, rfl, rfl, rfl⟩ | ⟨rfl, rfl, rfl, rfl⟩ | ⟨rfl, rfl, rfl, rfl⟩ | ⟨rfl, rfl, rfl, rfl⟩ |
    ⟨rfl, rfl, rfl, rfl⟩ | ⟨rfl, rfl, rfl, rfl⟩ | ⟨rfl, rfl, hs, rfl, rfl⟩ | ⟨rfl, rfl, hs, rfl, rfl⟩ |
    ⟨rfl, rfl, hs, rfl, rfl⟩ | ⟨rfl, rfl, hs, rfl, rfl⟩ | ⟨ha, hr, rfl, rfl⟩ := hoff
  · exact step_of_read_value (r := .cmd) (b := false) h rfl rfl
  · exact step_of_read_value (r := .status) (b := false) h rfl rfl
  · exact step_of_read_value (r := .seed) (b := false) h rfl rfl
  · exact step_of_read_value (r := .len) (b := false) h rfl rfl
  · exact step_of_read_value (r := .bufsz) (b := false) h rfl rfl
  · exact step_of_read_value (r := .seclen) (b := false) h rfl rfl
  · exact step_of_read_value (r := .result) (b := false) h rfl (if_pos hs)
  · exact step_of_read_value (r := .result) (b := true) h rfl (if_neg hs)
  · exact step_of_read_value (r := .faultinfo) (b := false) h rfl (if_pos hs)
  · exact step_of_read_value (r := .faultinfo) (b := true) h rfl (if_neg hs)
  · exact step_of_read_value (r := .reserved) (b := false) h (regTarget_reserved ha hr) rfl

/-- A byte put at its place in a word of eight. -/
theorem byte_shift_toNat (b : Byte) {k : Nat} (hk : k < 8) :
    ((b.setWidth 64) <<< (8 * k)).toNat = 2 ^ (8 * k) * b.toNat := by
  have hfit : 2 ^ (8 * k) * b.toNat < 2 ^ 64 :=
    calc 2 ^ (8 * k) * b.toNat < 2 ^ (8 * k) * 2 ^ 8 := Nat.mul_lt_mul_of_pos_left b.isLt (Nat.two_pow_pos _)
      _ = 2 ^ (8 * k + 8) := (Nat.pow_add ..).symm
      _ ≤ 2 ^ 64 := Nat.pow_le_pow_right (by decide) (by omega)
  rw [BitVec.toNat_shiftLeft, BitVec.toNat_setWidth_of_le (by decide), Nat.shiftLeft_eq, Nat.mul_comm,
    Nat.mod_eq_of_lt hfit]

/-- The bytes that a read of `CSEC` puts together, as a number within their width (20_memory.md R52). -/
theorem csecValue_toNat (s : State) (off : Nat) {k : Nat} (hk : k ≤ 8) :
    (csecValue s off k).toNat =
        ∑ i ∈ Finset.range k, 2 ^ (8 * i) * (s.secretBytes (.csec Config.engine.csecCapacity) (off + i)).toNat ∧
      (csecValue s off k).toNat < 2 ^ (8 * k) := by
  induction k with
  | zero => simp [csecValue]
  | succ k ih =>
    obtain ⟨hsum, hlt⟩ := ih (by omega)
    have hval : (csecValue s off (k + 1)).toNat = (csecValue s off k).toNat +
        2 ^ (8 * k) * (s.secretBytes (.csec Config.engine.csecCapacity) (off + k)).toNat := by
      rw [csecValue, BitVec.toNat_or, byte_shift_toNat _ (by omega), Nat.or_comm, ← Nat.two_pow_add_eq_or_of_lt hlt,
        Nat.add_comm]
    refine ⟨by rw [hval, hsum, Finset.sum_range_succ], ?_⟩
    have hbyte := (s.secretBytes (.csec Config.engine.csecCapacity) (off + k)).isLt
    calc (csecValue s off (k + 1)).toNat
        < 2 ^ (8 * k) * ((s.secretBytes (.csec Config.engine.csecCapacity) (off + k)).toNat + 1) := by
          rw [hval, Nat.mul_succ]
          omega
      _ ≤ 2 ^ (8 * k) * 2 ^ 8 := Nat.mul_le_mul_left _ hbyte
      _ = 2 ^ (8 * (k + 1)) := (Nat.pow_add ..).symm

/-- A byte of `CSEC` that holds a value is read as that value. -/
theorem secretBytes_csec_of_known {z a : Nat} (h : (Mem.read? s.csec a).isSome = true) :
    s.secretBytes (.csec z) a = (Mem.read? s.csec a).getD 0 := by
  obtain ⟨b, hb⟩ := Option.isSome_iff_exists.1 h
  simp [State.secretBytes, hb]

/-- Settles O55: the value put together from bytes that all hold one. -/
theorem csecReadsAreLittleEndian : Obligations.CsecReadsAreLittleEndian := by
  intro s k w rest h hk ha hknown
  have hw : w.bytes ≤ 8 := by cases w <;> decide
  refine ⟨csecValue { s with inbox := rest } k w.bytes, ?_, ?_⟩
  · exact step_of_read_value (r := .csec k) (b := false) h (regTarget_csec.2 ⟨rfl, hk, ha⟩)
      (by simp [readValue, hknown])
  · rw [(csecValue_toNat _ k hw).1]
    refine Finset.sum_congr rfl fun i hi => ?_
    have hbyte := (Mem.known_iff ..).1 hknown i (Finset.mem_range.1 hi)
    rw [secretBytes_csec_of_known (s := { s with inbox := rest }) hbyte]

/-- Settles O59: what `Mem.write` leaves to read, and the mark of a store below `LEN` in BUSY. -/
theorem hostStoresReachOneByte : Obligations.HostStoresReachOneByte := by
  intro s off rest
  refine ⟨fun b h => ⟨_, _, step_of_store h, fun a => Mem.read?_write _ _ a b, fun hb hlen => ?_, fun hout => ?_⟩,
    fun h => ⟨fun b hb => ?_, fun hnone => ?_⟩⟩
  · simp [hb, hlen]
  · obtain hne | hle := hout
    · simp [hne]
    · simp [Nat.not_lt.2 hle]
  · rw [step_of_load h, hostLoad_of_some (s := { s with inbox := rest }) hb]
  · rw [step_of_load h, hostLoad_of_none (s := { s with inbox := rest }) hnone]

/-! ### `STATUS` and reset -/

theorem EngineState.code_inj {a b : EngineState} : a.code = b.code ↔ a = b := by
  cases a <;> cases b <;> decide

/-- The `STATUS` word as a number (10_state.md R24). -/
theorem Status.word_toNat (t : Status) :
    t.word.toNat = t.state.code.toNat + 2 ^ 4 * t.fcode.toNat + 2 ^ 8 * t.lclass.toNat := by
  rw [Status.word, BitVec.toNat_append, BitVec.toNat_append, BitVec.toNat_append, BitVec.toNat_append,
    ← Nat.shiftLeft_add_eq_or_of_lt t.state.code.isLt, ← Nat.shiftLeft_add_eq_or_of_lt (0#2).isLt,
    ← Nat.shiftLeft_add_eq_or_of_lt t.fcode.isLt, ← Nat.shiftLeft_add_eq_or_of_lt t.lclass.isLt]
  simp only [Nat.shiftLeft_eq, BitVec.toNat_ofNat]
  omega

/-- The parts of the `STATUS` word, from bit 0 up. -/
theorem Status.word_fields (t : Status) :
    t.word.extractLsb' 0 2 = t.state.code ∧ t.word.extractLsb' 2 2 = 0#2 ∧ t.word.extractLsb' 4 4 = t.fcode ∧
      t.word.extractLsb' 8 3 = t.lclass ∧ t.word.extractLsb' 11 21 = 0#21 := by
  have hword := t.word_toNat
  have hstate := t.state.code.isLt
  have hfcode := t.fcode.isLt
  have hlclass := t.lclass.isLt
  refine ⟨?_, ?_, ?_, ?_, ?_⟩ <;> apply BitVec.eq_of_toNat_eq <;>
    simp only [BitVec.extractLsb'_toNat, hword, Nat.shiftRight_eq_div_pow, BitVec.toNat_ofNat] <;> omega

/-- Settles O56: each field is a part of the word, and the codes of `STATE` differ. -/
theorem statusWordFields : Obligations.StatusWordFields := by
  intro t
  obtain ⟨hstate, h2, hfcode, hlclass, h11⟩ := t.word_fields
  rw [hstate]
  exact ⟨EngineState.code_inj (b := .idle), EngineState.code_inj (b := .busy), EngineState.code_inj (b := .done),
    EngineState.code_inj (b := .fault), h2, hfcode, hlclass, h11⟩

theorem step_of_reset {rest : List HostMove} (h : s.inbox = .reset :: rest) :
    step s = .next (resetEngine { s with inbox := rest }) := by
  simp [step, turn, h]

/-- Settles O60: the reset event leaves the host's fields and takes the others from `State.reset`. -/
theorem resetGivesTheResetValues : Obligations.ResetGivesTheResetValues := by
  intro s rest h
  have hword : State.reset.status.word = 0x00000700#32 := by decide
  exact ⟨_, step_of_reset h, hword, rfl, rfl, rfl, rfl, rfl, fun _ => rfl, fun _ => rfl, rfl, rfl,
    hword, rfl, rfl, rfl, rfl, rfl⟩

end Sys2Proof.Machine

namespace Sys2Proof.Machine

variable {s : State}

/-! ### The engine never stops -/

/-- The operation reaches a next state: no fault of the model, no refusal. -/
def Goes (o : Result) : Prop := ∃ t, o = .next t

theorem goes_next (t : State) : Goes (.next t) := ⟨t, rfl⟩

/-- A chain goes on where its first link does and the rest goes on from every state of the same control. -/
theorem goes_andThen {f g : State → Result} (hk : KeepsControl f) (hf : Goes (f s))
    (hg : ∀ u, SameControl s u → Goes (g u)) : Goes (andThen (f s) g) := by
  obtain ⟨u, hu⟩ := hf
  rw [hu]
  exact hg u (hk s u hu)

/-- The secret operand of a command whose checks have passed is one that a strategy may read. -/
theorem State.Inv.secret_wf (h : s.Inv) (hs : s.phase.checked = true) : s.secretOperand.wf = true :=
  secretOperand_wf (h.checks_passed hs).2

/-- A MIX16 of the sequencer within its bounds goes on. -/
theorem goes_mixInto {io so : Nat} (h1 : io + 16 ≤ s.latch.len.toNat) (hS : s.secretOperand.wf = true)
    (h2 : so + 16 ≤ 136) : Goes (mixInto io so s) := by
  obtain ⟨b, hb⟩ := mixInto_within h1 hS (h2.trans (SecretOperand.size_of_wf hS).1)
  exact ⟨_, hb⟩

theorem goes_stripeOf {b : Nat}
    (h1 : b * blockLen s.secretOperand.size + 64 * s.str.toNat + 64 ≤ s.latch.len.toNat)
    (hS : s.secretOperand.wf = true) (h2 : 8 * s.str.toNat + 64 ≤ s.secretOperand.size) : Goes (stripeOf b s) := by
  obtain ⟨m, hm⟩ := stripeOf_within h1 hS h2
  exact ⟨_, hm⟩

theorem goes_checkPhase (s : State) : Goes (checkPhase s) := by
  unfold checkPhase
  split
  · split <;> exact goes_next _
  · split
    · exact goes_next _
    · split <;> exact goes_next _

theorem goes_shortPhase (hS : s.secretOperand.wf = true) : Goes (shortPhase s) :=
  goes_andThen (keepsControl_strategyReads _ _ _)
    ⟨_, strategyReads_within (lengthClass_has s.latch.len) le_rfl hS⟩ fun _ _ => goes_next _

/-- A round that LEN17_128 has left reads within 128 bytes of input and 128 of secret (43_dispatch_mid.md R150). -/
theorem goes_roundLen17_128 (hS : s.secretOperand.wf = true) (h17 : 17 ≤ s.latch.len.toNat)
    (h128 : s.latch.len.toNat ≤ 128) (hr : s.rnd.toNat < roundsLen17_128 s.latch.len.toNat) :
    Goes (roundLen17_128 s) := by
  rw [roundsLen17_128] at hr
  refine goes_andThen (keepsControl_mixInto _ _) (goes_mixInto (by omega) hS (by omega)) fun u hu => ?_
  refine goes_andThen (keepsControl_mixInto _ _) ?_ fun _ _ => goes_next _
  exact goes_mixInto (by rw [hu.latch, hu.rnd]; omega) (by rwa [hu.secretOperand]) (by rw [hu.rnd]; omega)

/-- So does a round that LEN129_240 has left, within 136 bytes of secret (R151). -/
theorem goes_roundLen129_240 (hS : s.secretOperand.wf = true) (h129 : 129 ≤ s.latch.len.toNat)
    (h240 : s.latch.len.toNat ≤ 240) : Goes (roundLen129_240 s) := by
  unfold roundLen129_240
  split_ifs with h7 h8 hchunk
  all_goals
    refine goes_andThen (keepsControl_mixInto _ _) (goes_mixInto ?_ hS ?_) fun _ _ => goes_next _
    all_goals omega

theorem State.Inv.goes_midPhase (h : s.Inv) (hs : s.phase = .mid) : Goes (midPhase s) := by
  obtain ⟨h17, h240, hrnd⟩ := h.mid_progress hs
  have hS : s.secretOperand.wf = true := h.secret_wf (by rw [hs]; rfl)
  unfold midPhase
  split_ifs at hrnd ⊢ with hr
  · exact goes_next _
  · cases hl : lengthClass s.latch.len with
    | len17_128 =>
      have h128 : s.latch.len.toNat ≤ 128 := (lengthClass_bounds hl).2
      rw [midRounds, if_pos h128] at hrnd
      exact goes_roundLen17_128 hS h17 h128 hrnd
    | len129_240 => exact goes_roundLen129_240 hS (lengthClass_bounds hl).1 h240
    | len0 | len1_3 | len4_8 | len9_16 | long => exact goes_next _

/-- A stripe of a full block ends before the last byte of the input (44_stripe_engine.md R173). -/
theorem blockStripe_within {b k n Z : Nat} (hb : b < fullBlocks n Z) (hk : k < stripesPerBlock Z) :
    b * blockLen Z + 64 * k + 64 ≤ n :=
  calc b * blockLen Z + 64 * k + 64 ≤ (b + 1) * blockLen Z := by rw [Nat.add_mul b 1, blockLen_eq]; omega
    _ ≤ fullBlocks n Z * blockLen Z := Nat.mul_le_mul_right _ hb
    _ ≤ n := (fullBlocks_mul_le n Z).trans (Nat.sub_le n 1)

theorem State.Inv.goes_longBlockPhase (h : s.Inv) (hs : s.phase = .longBlock) : Goes (longBlockPhase s) := by
  have hc : s.phase.checked = true := by rw [hs]; rfl
  have hS : s.secretOperand.wf = true := h.secret_wf hc
  obtain ⟨hz1, hz2⟩ := h.secret_size hc
  have hspb := (stripesPerBlock_bounds hz1 hz2).2.2
  unfold longBlockPhase
  split_ifs with hb hk
  · exact goes_stripeOf (blockStripe_within hb hk) hS (by omega)
  · exact goes_andThen (keepsControl_execScramble _) ⟨_, execScramble_within hS⟩ fun _ _ => goes_next _
  · exact goes_next _

theorem State.Inv.goes_longTailPhase (h : s.Inv) (hs : s.phase = .longTail) : Goes (longTailPhase s) := by
  have hc : s.phase.checked = true := by rw [hs]; rfl
  have hS : s.secretOperand.wf = true := h.secret_wf hc
  obtain ⟨hz1, hz2⟩ := h.secret_size hc
  have hspb := (stripesPerBlock_bounds hz1 hz2).2.2
  have htail := tailStripes_lt (n := s.latch.len.toNat) hz1 hz2
  have hin := tailStripes_le s.latch.len.toNat s.secretOperand.size
  unfold longTailPhase
  split_ifs with hk
  · exact goes_stripeOf (by omega) hS (by omega)
  · exact goes_next _

theorem State.Inv.goes_longLastPhase (h : s.Inv) (hs : s.phase = .longLast) : Goes (longLastPhase s) := by
  have h241 : 241 ≤ s.latch.len.toNat := by simpa only [State.progress, hs] using h.progress
  have hc : s.phase.checked = true := by rw [hs]; rfl
  obtain ⟨hz, -⟩ := h.secret_size hc
  have hlast : (s.latch.len - BitVec.ofNat 64 Config.engine.stripeLen).toNat + 64 ≤ s.latch.len.toNat := by
    rw [Config.engine_stripeLen]
    bv_omega
  have hsecret : s.secretOperand.size - Config.engine.stripeLen - 7 + 64 ≤ s.secretOperand.size := by
    rw [Config.engine_stripeLen]
    omega
  exact goes_andThen (keepsControl_execAccumulate _ _ _)
    ⟨_, execAccumulate_within hlast (h.secret_wf hc) hsecret⟩
    fun _ _ => goes_next _

theorem State.Inv.goes_mergePhase (h : s.Inv) (hs : s.phase = .merge) : Goes (mergePhase s) := by
  have hc : s.phase.checked = true := by rw [hs]; rfl
  obtain ⟨hz, -⟩ := h.secret_size hc
  exact goes_andThen (keepsControl_readSecret _ _ _)
    ⟨_, readSecret_within (h.secret_wf hc) (by omega)⟩ fun _ _ => goes_next _

theorem goes_finishPhase (s : State) : Goes (finishPhase s) := by
  refine goes_andThen (keepsControl_finisher s) ?_ fun _ _ => goes_next _
  unfold finisherInstr
  split <;> exact goes_next _

/-- Every transition of Table PHASE is made: no read of `IN` or of a secret leaves its bounds (20_memory.md R55). -/
theorem State.Inv.goes_engineMove (h : s.Inv) : Goes (engineMove s) := by
  unfold engineMove
  cases hs : s.phase
  case idle | done | fault => exact goes_next _
  case check => exact goes_checkPhase s
  case derive => exact goes_next _
  case dispatch => exact ⟨_, dispatchPhase_eq s⟩
  case short => exact goes_shortPhase (h.secret_wf (by rw [hs]; rfl))
  case mid => exact h.goes_midPhase hs
  case longBlock => exact h.goes_longBlockPhase hs
  case longTail => exact h.goes_longTailPhase hs
  case longLast => exact h.goes_longLastPhase hs
  case merge => exact h.goes_mergePhase hs
  case finish => exact goes_finishPhase s

/-! ### The stops of the host's accesses -/

/-- The operation stops at most by the name that `noAccess` gives an access: a fault from 0x200 on, a refusal below
(20_memory.md R58, log 7). -/
def StopsByAccess (o : Result) : Prop :=
  (∀ r, o = .fault r → ∃ off, r = .outsideWindow off ∧ 0x200 ≤ off) ∧
    ∀ r, o = .refused r → ∃ off w, r = .unspecifiedAccess off w ∧ off < 0x200

theorem Goes.stopsByAccess {o : Result} (h : Goes o) : StopsByAccess o := by
  obtain ⟨t, rfl⟩ := h
  constructor <;> nofun

theorem noAccess_inside {off : Nat} (h : off < 0x200) (w : Width) :
    noAccess off w = .refused (.unspecifiedAccess off w) := if_neg (Nat.not_le.2 h)

theorem noAccess_outside {off : Nat} (h : 0x200 ≤ off) (w : Width) : noAccess off w = .fault (.outsideWindow off) :=
  if_pos h

theorem stopsByAccess_noAccess (off : Nat) (w : Width) : StopsByAccess (noAccess off w) := by
  obtain h | h := Nat.lt_or_ge off 0x200
  · rw [noAccess_inside h]
    exact ⟨nofun, fun r hr => by cases hr; exact ⟨off, w, rfl, h⟩⟩
  · rw [noAccess_outside h]
    exact ⟨fun r hr => by cases hr; exact ⟨off, rfl, h⟩, nofun⟩

theorem goes_issueHash (cmd : HashCommand) (s : State) : Goes (issueHash cmd s) := by
  unfold issueHash
  split <;> exact goes_next _

/-- A command word is answered in every state (Table ACCEPT of 46_commands.md R214). -/
theorem goes_issueCommand (w : Half) (s : State) : Goes (issueCommand w s) := by
  unfold issueCommand
  split
  · next i hi =>
    obtain rfl | rfl | rfl | rfl := decodeWord_ok hi
    · exact goes_next _
    · exact goes_issueHash _ s
    · exact goes_issueHash _ s
    · simp only [exec, execClear]
      split <;> exact goes_next _
  · unfold illegalCommand
    split <;> exact goes_next _

theorem stopsByAccess_hostWrite (off : Nat) (w : Width) (v : Word) (s : State) :
    StopsByAccess (hostWrite off w v s) := by
  unfold hostWrite
  split
  case h_1 => exact (goes_issueCommand _ s).stopsByAccess
  case h_2 | h_3 | h_4 | h_5 | h_6 => exact Goes.stopsByAccess ⟨_, unlessBusy_eq s _⟩
  case h_7 | h_8 | h_9 | h_10 => exact (goes_next s).stopsByAccess
  case h_11 => exact stopsByAccess_noAccess off w

theorem stopsByAccess_hostRead (off : Nat) (w : Width) (s : State) : StopsByAccess (hostRead off w s) := by
  unfold hostRead
  split
  · exact (goes_next _).stopsByAccess
  · exact stopsByAccess_noAccess off w

theorem State.Inv.stopsByAccess_hostWait (h : s.Inv) (rest : List HostMove) : StopsByAccess (hostWait rest s) := by
  have hi (m : List HostMove) : State.Inv { s with inbox := m } := { h with }
  unfold hostWait
  split
  · exact (hi _).goes_engineMove.stopsByAccess
  all_goals exact stopsByAccess_hostRead _ _ _

/-- Whoever moves, only an access to `REG` that R58 does not specify stops the machine. -/
theorem State.Inv.stopsByAccess_step (h : s.Inv) : StopsByAccess (step s) := by
  have hi (m : List HostMove) : State.Inv { s with inbox := m } := { h with }
  unfold step turn
  split
  case h_1 => exact h.goes_engineMove.stopsByAccess
  case h_2 => exact (hi _).goes_engineMove.stopsByAccess
  case h_3 => exact stopsByAccess_hostWrite _ _ _ _
  case h_4 => exact stopsByAccess_hostRead _ _ _
  case h_7 => exact h.stopsByAccess_hostWait _
  case h_5 | h_6 | h_8 => exact (goes_next _).stopsByAccess

/-- Settles O49: a transition of the engine never stops, and an access of the host only as `noAccess` names it. -/
theorem stepsNeverOverread : Obligations.StepsNeverOverread := fun _ h => h.stopsByAccess_step

end Sys2Proof.Machine

namespace Sys2Proof.Machine

variable {s : State}

/-! ### The typed reads -/

theorem rd32_toNat (X : Bytes) (o : Nat) :
    (rd32 X o).toNat = ∑ k ∈ Finset.range 4, 2 ^ (8 * k) * (X (o + k)).toNat :=
  (wordOfBytes_toNat (X o) (X (o + 1)) (X (o + 2)) (X (o + 3))).trans (by simp [Finset.sum_range_succ])

theorem append_toNat {m n : Nat} (h : BitVec m) (l : BitVec n) : (h ++ l).toNat = 2 ^ n * h.toNat + l.toNat := by
  rw [BitVec.toNat_append, Nat.shiftLeft_eq, Nat.mul_comm, Nat.two_pow_add_eq_or_of_lt l.isLt]

/-- A 64-bit read is two 32-bit reads, the one at the higher offset above (20_memory.md R52). -/
theorem rd64_eq_append (X : Bytes) (o : Nat) : rd64 X o = rd32 X (o + 4) ++ rd32 X o := by
  apply BitVec.eq_of_toNat_eq
  rw [rd64, rd32, rd32]
  iterate 14 rw [append_toNat]
  simp only [Nat.add_assoc, Nat.reduceAdd]
  omega

/-- Settles O41: four bytes are a word of `wordOfBytes`, eight bytes twice four. -/
theorem readsAreLittleEndian : Obligations.ReadsAreLittleEndian := by
  intro X o
  refine ⟨rd32_toNat X o, ?_, ?_⟩
  · rw [rd64_eq_append, append_toNat, rd32_toNat, rd32_toNat, Finset.sum_range_add _ 4 4, Nat.add_comm, Finset.mul_sum]
    congr 1
    exact Finset.sum_congr rfl fun k _ => by rw [Nat.mul_add, Nat.pow_add, Nat.mul_assoc, Nat.add_assoc]
  · rw [rd64_eq_append]
    exact BitVec.extractLsb'_append_eq_right

/-! ### What the classes read -/

/-- Every byte of the input lies in a read of its class (20_memory.md R55). -/
theorem inputReads_cover {c : LenClass} {n a : Nat} (hc : c.lenMin ≤ n ∧ n ≤ c.lenMax) (ha : a < n) :
    ∃ r ∈ inputReads n c, r.1 ≤ a ∧ a < r.1 + r.2 := by
  cases c <;> simp only [LenClass.lenMin, LenClass.lenMax] at hc
  case len0 => omega
  case len1_3 =>
    obtain h | h | h : a = 0 ∨ a = n / 2 ∨ a = n - 1 := by omega
    · exact ⟨(0, 1), by simp [inputReads], by simp only; omega⟩
    · exact ⟨(n / 2, 1), by simp [inputReads], by simp only; omega⟩
    · exact ⟨(n - 1, 1), by simp [inputReads], by simp only; omega⟩
  case len4_8 =>
    obtain h | h := Nat.lt_or_ge a 4
    · exact ⟨(0, 4), by simp [inputReads], by simp only; omega⟩
    · exact ⟨(n - 4, 4), by simp [inputReads], by simp only; omega⟩
  case len9_16 =>
    obtain h | h := Nat.lt_or_ge a 8
    · exact ⟨(0, 8), by simp [inputReads], by simp only; omega⟩
    · exact ⟨(n - 8, 8), by simp [inputReads], by simp only; omega⟩
  case len17_128 =>
    obtain h | h := Nat.lt_or_ge a (16 * roundsLen17_128 n)
    · exact ⟨(16 * (a / 16), 16), List.mem_flatMap.2 ⟨a / 16, List.mem_range.2 (by omega), by simp⟩,
        by simp only; omega⟩
    -- Past the front chunks, `a` lies in a back chunk, counted from the end of the input.
    · rw [roundsLen17_128] at h
      exact ⟨(n - 16 * ((n - 1 - a) / 16 + 1), 16),
        List.mem_flatMap.2 ⟨(n - 1 - a) / 16, List.mem_range.2 (by rw [roundsLen17_128]; omega), by simp⟩,
        by simp only; omega⟩
  case len129_240 =>
    obtain h | h := Nat.lt_or_ge a (16 * (n / 16))
    · exact ⟨(16 * (a / 16), 16), List.mem_append_left _ (List.mem_map.2 ⟨a / 16, List.mem_range.2 (by omega), rfl⟩),
        by simp only; omega⟩
    · exact ⟨(n - 16, 16), List.mem_append_right _ List.mem_cons_self, by simp only; omega⟩
  case long =>
    obtain h | h := Nat.lt_or_ge a (64 * ((n - 1) / 64))
    · have hj : a / 64 < (n - 1) / Config.engine.stripeLen := by rw [Config.engine_stripeLen]; omega
      exact ⟨(64 * (a / 64), 64), List.mem_append_left _ (List.mem_map.2 ⟨a / 64, List.mem_range.2 hj, rfl⟩),
        by simp only; omega⟩
    · exact ⟨(n - 64, 64), List.mem_append_right _ List.mem_cons_self, by simp only; omega⟩

/-- Settles O42: the reads of a class are within its length and cover it. -/
theorem readsCoverTheInputAndNoMore : Obligations.ReadsCoverTheInputAndNoMore := fun _ =>
  ⟨inputReads_within (lengthClass_bounds rfl), fun _ ha => inputReads_cover (lengthClass_bounds rfl) ha⟩

/-! ### Strategies over unwritten input -/

variable {n : Word} {S L : SecretOperand} {seed : Word}

theorem mark_true (s : State) : mark true s = { s with tainted := true } := by simp [mark]

/-- An input with an unwritten byte has an unwritten byte in some read of its class. -/
theorem inputReads_not_known {m : Mem} {c : LenClass} {n : Nat} (hc : c.lenMin ≤ n ∧ n ≤ c.lenMax)
    (h : Mem.known m 0 n = false) : ((inputReads n c).all fun r => Mem.known m r.1 r.2) = false := by
  rw [← Bool.not_eq_true] at h ⊢
  refine fun hall => h ((Mem.known_iff ..).2 fun a ha => ?_)
  obtain ⟨⟨off, k⟩, hr, hlo, hhi⟩ := inputReads_cover hc ha
  have hread := (Mem.known_iff ..).1 (List.all_eq_true.1 hall _ hr) (a - off) (by omega)
  rwa [Nat.add_sub_cancel' hlo, ← Nat.zero_add a] at hread

/-- The reads of a strategy over an input with an unwritten byte mark `RESULT` and do nothing else. -/
theorem strategyReads_of_unwritten (hS : S.wf = true) (hn : n.toNat ≤ s.latch.len.toNat)
    (hu : Mem.known s.input 0 n.toNat = false) : strategyReads (lengthClass n) n S s = .next (mark true s) := by
  rw [strategyReads_within (lengthClass_has n) hn hS, inputReads_not_known (lengthClass_bounds rfl) hu]
  rfl

/-- STRIPELOOP of a length of its class, within `LEN`: the accumulators, its two counters, and the mark if a byte holds
no value. -/
theorem execStripeloop_within (hl : lengthClass n = .long) (hn : n.toNat ≤ s.latch.len.toNat) (hS : S.wf = true) :
    execStripeloop n S s =
      .next (setAcc (stripeLoop s.inputBytes n.toNat (s.secretBytes S) S.size s.acc)
        (setBlock (BitVec.ofNat 64 (fullBlocks n.toNat S.size)) (BitVec.ofNat 5 (tailStripes n.toNat S.size))
          (mark (!(inputReads n.toNat .long).all (fun r => Mem.known s.input r.1 r.2) ||
            !(stripeSecretReads n.toNat S.size).all fun r => s.secretKnown S r.1 r.2) s))) := by
  have hc := lengthClass_bounds hl
  have hz := SecretOperand.size_of_wf hS
  rw [execStripeloop, requireClass_of_has (hl ▸ lengthClass_has n), andThen_next,
    readInputs_within fun r hr => (inputReads_within hc r hr).trans hn, andThen_next,
    readSecrets_within hS (stripeSecretReads_within hz.1 hz.2), andThen_next, mark_mark]
  simp

/-- LONG over an input with an unwritten byte: STRIPELOOP marks `RESULT`, and MERGE goes on. -/
theorem execLong_of_unwritten (hl : lengthClass n = .long) (hn : n.toNat ≤ s.latch.len.toNat) (hS : S.wf = true)
    (hu : Mem.known s.input 0 n.toNat = false) :
    ∃ a h b k v m, execLong n S s =
      .next (setOut v (setHacc h (mark m (setAcc a (setBlock b k (mark true (setAcc initAcc s))))))) := by
  have hloop := execStripeloop_within (s := setAcc initAcc s) hl hn hS
  rw [setAcc_input, inputReads_not_known (lengthClass_bounds hl) hu, Bool.not_false, Bool.true_or] at hloop
  rw [execLong, execInitacc, andThen_next, hloop, andThen_next, execMerge_within hS]
  exact ⟨_, _, _, _, _, _, rfl⟩

/-- A strategy over an input with an unwritten byte completes, marks `RESULT`, and changes at most the scratch of
10_state.md R26 to R28 and the value it returns. -/
theorem exec_strategyInstr_of_unwritten (hS : S.wf = true) (hL : L.wf = true) (hn : n.toNat ≤ s.latch.len.toNat)
    (hu : Mem.known s.input 0 n.toNat = false) :
    ∃ a h b k r v, exec (strategyInstr n S L seed) s = .next { s with
      acc := a, hacc := h, blk := b, str := k, rnd := r, out := v, tainted := true } := by
  have hreads := strategyReads_of_unwritten hS hn hu
  rw [mark_true] at hreads
  cases hl : lengthClass n with
  | len0 =>
    have h0 : n.toNat = 0 := Nat.le_zero.1 (lengthClass_bounds hl).2
    rw [h0] at hu
    cases hu
  | len1_3 | len4_8 | len9_16 | len17_128 | len129_240 =>
    rw [hl] at hreads
    simp only [strategyInstr, hl, exec, execLen1_3, execLen4_8, execLen9_16, execLen17_128, execLen129_240, hreads,
      andThen_next]
    exact ⟨_, _, _, _, _, _, rfl⟩
  | long =>
    obtain ⟨a, h, b, k, v, m, hlong⟩ := execLong_of_unwritten hl hn hL hu
    refine ⟨a, h, b, k, s.rnd, v, ?_⟩
    simp only [strategyInstr, hl, exec, hlong]
    simp [setOut, setHacc, mark, setAcc, setBlock]

/-- Settles O28: only scratch and the mark change. -/
theorem strategiesCompleteOnUnwrittenInput : Obligations.StrategiesCompleteOnUnwrittenInput := by
  intro s n S L seed hS hL hn hu
  obtain ⟨a, h, b, k, r, v, hexec⟩ := exec_strategyInstr_of_unwritten (seed := seed) hS hL hn hu
  exact ⟨_, hexec, rfl, rfl, rfl, rfl, rfl, ⟨rfl, rfl, rfl, rfl, fun _ => rfl, fun _ => rfl⟩, ⟨rfl, rfl, rfl⟩⟩

/-! ### Accesses that R58 leaves unspecified -/

theorem regTarget_outside {off : Nat} (h : 0x200 ≤ off) (w : Width) : regTarget off w = none := by
  simp only [regTarget]
  iterate 8 rw [if_neg (by omega)]
  split
  · rfl
  · iterate 3 rw [if_neg (by omega)]

/-- An access that is of no register's offset and width, and neither naturally aligned from 0x040 on nor inside a
reserved half, reaches nothing (20_memory.md R58). -/
theorem regTarget_unspecified {off : Nat} {w : Width}
    (h8 : ¬ (off ∈ [0x010, 0x018, 0x020, 0x030, 0x038] ∧ w = .b8)) (h4 : ¬ (off ∈ [0x000, 0x008, 0x028] ∧ w = .b4))
    (hrest : off % w.bytes = 0 → off < 0x040 ∧
      ¬ (0x004 ≤ off ∧ off < 0x008 ∨ 0x00C ≤ off ∧ off < 0x010 ∨ 0x02C ≤ off ∧ off < 0x030)) :
    regTarget off w = none := by
  simp only [List.mem_cons, List.not_mem_nil, or_false] at h8 h4
  simp only [regTarget]
  iterate 8 rw [if_neg (by tauto)]
  split
  · rfl
  · next ha =>
    obtain ⟨hlow, hhalf⟩ := hrest (not_not.1 ha)
    rw [if_neg (by omega), if_neg (by omega), if_neg hhalf]

theorem step_of_no_target {off : Nat} {w : Width} {v : Word} {rest : List HostMove}
    (h : s.inbox = .write off w v :: rest ∨ s.inbox = .read off w :: rest) (hr : regTarget off w = none) :
    step s = noAccess off w := by
  obtain h | h := h
  · rw [step_of_write h, hostWrite, hr]
  · rw [step_of_read h, hostRead, hr]

/-- Settles O57: these accesses reach no register, and `noAccess` names them by their offset. -/
theorem unspecifiedAccessesStop : Obligations.UnspecifiedAccessesStop := by
  intro s off w v rest h
  refine ⟨fun hin hspec => ?_, fun hout => ?_⟩
  · simp only [not_or] at hspec
    obtain ⟨h8, h4, haligned, hhalf⟩ := hspec
    rw [step_of_no_target h (regTarget_unspecified h8 h4 fun ha => ?_), noAccess_inside hin]
    exact ⟨by omega, fun hh => hhalf ⟨hh, ha⟩⟩
  · rw [step_of_no_target h (regTarget_outside hout w), noAccess_outside hout]

end Sys2Proof.Machine

/-! PROOFS. The statements of 30_encoding.md: the two decodes, and the host script `HASH` with the run of the sequencer
that it waits for. -/

namespace Sys2Proof

/-! ### The command word -/

/-- The decode and the encoding of a command word are inverse to each other (30_encoding.md R81, R89). -/
theorem decodeWord_eq_ok_iff {w : Half} {i : Instr} : decodeWord w = .ok i ↔ encodeWord i = some w := by
  constructor
  · intro h
    have hw (k : Half) (hk : w.toNat = k.toNat) : k = w := (BitVec.eq_of_toNat_eq hk).symm
    rw [decodeWord_by_number] at h
    split_ifs at h with h0 h1 h2 h3 <;> cases h
    · exact congrArg some (hw 0 h0)
    · exact congrArg some (hw 1 h1)
    · exact congrArg some (hw 2 h2)
    · exact congrArg some (hw 3 h3)
  · cases i <;> intro h <;> cases h <;> rfl

/-- A word decodes to a command exactly if it is the word of that command under the mask of the command's row (R81),
which keeps every bit. -/
theorem decodeWord_eq_ok_iff_masked {w v : Half} {i : Instr} (h : encodeWord i = some v) :
    decodeWord w = .ok i ↔ w &&& 0xFFFFFFFF#32 = v := by
  rw [decodeWord_eq_ok_iff, h, Option.some.injEq, show 0xFFFFFFFF#32 = BitVec.allOnes 32 from rfl,
    BitVec.and_allOnes, eq_comm]

/-- Settles O1: a command by its one word, an illegal word by the test of R89 step (1). -/
theorem commandWordsDecode : Obligations.CommandWordsDecode := by
  intro w
  refine ⟨decodeWord_eq_ok_iff_masked rfl, decodeWord_eq_ok_iff_masked rfl, decodeWord_eq_ok_iff_masked rfl,
    decodeWord_eq_ok_iff_masked rfl, ?_⟩
  unfold decodeWord
  split_ifs with hill <;> simpa [reservedField, opField, BitVec.lt_def] using hill

/-- Bytes decode to an instruction exactly if they begin with the bytes of a word that does. -/
theorem decode_eq_ok_iff {bs rest : List Byte} {i : Instr} :
    decode bs = .ok (i, rest) ↔ ∃ w, decodeWord w = .ok i ∧ bs = bytesOfWord w ++ rest := by
  constructor
  · intro h
    unfold decode at h
    split at h
    case h_1 b0 b1 b2 b3 tail =>
      split at h <;> cases h
      next hw => exact ⟨_, hw, by rw [bytesOfWord_wordOfBytes]; rfl⟩
    all_goals cases h
  · rintro ⟨w, hw, rfl⟩
    simp only [bytesOfWord, List.cons_append, List.nil_append, decode, wordOfBytes_of_word, hw]

/-- Settles O2: the four bytes of a word and the word agree, and so do a word and its command. -/
theorem decodeAndEncodeAgree : Obligations.DecodeAndEncodeAgree := by
  intro i bs rest
  simp only [decode_eq_ok_iff, decodeWord_eq_ok_iff, encode, Option.map_eq_some_iff]
  constructor
  · rintro ⟨w, hw, hbs⟩
    exact ⟨_, ⟨w, hw, rfl⟩, hbs⟩
  · rintro ⟨_, ⟨w, hw, rfl⟩, hbs⟩
    exact ⟨w, hw, hbs⟩

/-- Settles O3: the class decoded has the length in its range, and each range decodes to its class. -/
theorem lengthClassSelectsTheOneRow : Obligations.LengthClassSelectsTheOneRow := by
  intro n c
  refine ⟨Machine.lengthClass_bounds, fun ⟨hmin, hmax⟩ => ?_⟩
  cases c with
  | len0 => exact Machine.lengthClass_len0 (Nat.le_zero.1 hmax)
  | len1_3 => exact Machine.lengthClass_len1_3 hmin hmax
  | len4_8 => exact Machine.lengthClass_len4_8 hmin hmax
  | len9_16 => exact Machine.lengthClass_len9_16 hmin hmax
  | len17_128 => exact Machine.lengthClass_len17_128 hmin hmax
  | len129_240 => exact Machine.lengthClass_len129_240 hmin hmax
  | long => exact Machine.lengthClass_long hmin

end Sys2Proof

namespace Sys2Proof.Machine

variable {s t u : State}

/-! ### Turns of the engine -/

/-- The engine moves next: a command is in flight, and the host has no move queued or waits for its end. -/
def State.EnginesTurn (s : State) : Prop :=
  s.status.state = .busy ∧ (s.inbox = [] ∨ ∃ rest, s.inbox = .wait :: rest)

theorem State.EnginesTurn.step_eq (h : s.EnginesTurn) : step s = engineMove s := by
  obtain ⟨hb, hi | ⟨rest, hi⟩⟩ := h
  · exact step_of_silence hi
  · have hs : { s with inbox := .wait :: rest } = s := by rw [← hi]
    simp only [step, turn, hi, hostWait, hb, hs]

/-- A run goes on by one transition of Table PHASE. -/
theorem run_move {k : Nat} (h : core.run k s = .next u) (hu : u.EnginesTurn) (ht : engineMove u = .next t) :
    core.run (k + 1) s = .next t :=
  (run_add k 1 h).trans (run_succ_of_next (hu.step_eq.trans ht) 0)

/-- `u` is `s` but for `PHASE`, the counters, `ACC`, `HACC` and the value wire: what the transitions between P_DISPATCH
and P_FINISH write over bytes that all hold a value (46_commands.md R216). -/
inductive SameFlight (s : State) : State → Prop where
  | scratch (p : Phase) (b : Word) (k : BitVec 5) (r : BitVec 4) (d : Bool) (a : Vector Word 8) (h v : Word) :
    SameFlight s { s with
      phase := p, blk := b, str := k, rnd := r, roundsDone := d, acc := a, hacc := h, out := v }

namespace SameFlight

theorem trans (h : SameFlight s t) (h' : SameFlight t u) : SameFlight s u := by
  cases h
  cases h'
  exact .scratch ..

theorem latch (h : SameFlight s u) : u.latch = s.latch := by cases h; rfl
theorem inputBytes (h : SameFlight s u) : u.inputBytes = s.inputBytes := by cases h; rfl
theorem secretOperand (h : SameFlight s u) : u.secretOperand = s.secretOperand := by cases h; rfl
theorem seedOperand (h : SameFlight s u) : u.seedOperand = s.seedOperand := by cases h; rfl
theorem turn (h : SameFlight s u) (hs : s.EnginesTurn) : u.EnginesTurn := by cases h; exact hs

theorem secretBytes (h : SameFlight s u) (S : SecretOperand) : u.secretBytes S = s.secretBytes S := by
  cases h
  cases S <;> rfl

theorem secretKnown (h : SameFlight s u) (S : SecretOperand) (i j : Nat) :
    u.secretKnown S i j = s.secretKnown S i j := by
  cases h
  cases S <;> rfl

end SameFlight

/-- A command in flight that the engine goes on with, whose checks have passed, over bytes of `IN` and of its secret
that all hold a value. -/
structure State.Hashing (s : State) : Prop where
  turn : s.EnginesTurn
  secret_wf : s.secretOperand.wf = true
  input_known : Mem.known s.input 0 s.latch.len.toNat = true
  secret_known : s.secretKnown s.secretOperand 0 s.secretOperand.size = true

namespace State.Hashing

theorem sameFlight (h : s.Hashing) (hu : SameFlight s u) : u.Hashing where
  turn := hu.turn h.turn
  secret_wf := hu.secretOperand ▸ h.secret_wf
  input_known := by cases hu; exact h.input_known
  secret_known := by rw [hu.secretOperand, hu.secretKnown]; exact h.secret_known

theorem secret_size (h : s.Hashing) : 136 ≤ s.secretOperand.size ∧ s.secretOperand.size ≤ 192 :=
  SecretOperand.size_of_wf h.secret_wf

theorem input_known_at (h : s.Hashing) {off k : Nat} (hk : off + k ≤ s.latch.len.toNat) :
    Mem.known s.input off k = true :=
  Mem.known_sub h.input_known (Nat.zero_le _) (by omega)

theorem secret_known_at (h : s.Hashing) {off k : Nat} (hk : off + k ≤ s.secretOperand.size) :
    s.secretKnown s.secretOperand off k = true :=
  secretKnown_sub h.secret_known hk

end State.Hashing

/-! ### P_SHORT and P_FINISH -/

/-- What the command in flight has to return (46_commands.md R215): the strategy of its class with its operands. -/
def State.hashValue (s : State) : Word :=
  selectHash s.inputBytes s.latch.len (s.secretBytes s.secretOperand) s.seedOperand (s.secretBytes s.secretOperand)
    s.secretOperand.size

/-- What the finisher of the class makes of its operand (42_dispatch_short.md R136). -/
def State.finished (s : State) : Word :=
  match lengthClass s.latch.len with
  | .len0 | .len1_3 => avalanche64 s.out
  | .len4_8 => rrmxmx s.out s.latch.len
  | .len9_16 => avalanche s.out
  | .len17_128 | .len129_240 | .long => avalanche s.hacc

theorem finishPhase_eq (s : State) : finishPhase s = .next (complete (setOut s.finished s)) := by
  unfold finishPhase finisherInstr State.finished
  cases lengthClass s.latch.len <;> rfl

/-- Within `b` transitions the command in flight is at P_FINISH, with the operand of which its finisher makes the
hash. -/
def ReachesFinish (b : Nat) (s : State) : Prop :=
  ∃ (k : Nat) (u : State), k ≤ b ∧ core.run k s = .next u ∧ SameFlight s u ∧ u.phase = .finish ∧
    u.finished = s.hashValue

theorem SameFlight.hashValue (h : SameFlight s u) : u.hashValue = s.hashValue := by
  rw [State.hashValue, State.hashValue, h.inputBytes, h.latch, h.secretOperand, h.secretBytes, h.seedOperand]

/-- A run to a state of the same flight goes on from there. -/
theorem ReachesFinish.of_run {j b c : Nat} (hrun : core.run j s = .next t) (hflight : SameFlight s t)
    (h : ReachesFinish b t) (hc : j + b ≤ c) : ReachesFinish c s := by
  obtain ⟨k, u, hk, hu, hflight', hp, hv⟩ := h
  exact ⟨j + k, u, by omega, (run_add j k hrun).trans hu, hflight.trans hflight', hp, hv.trans hflight.hashValue⟩

theorem ReachesFinish.mono {b c : Nat} (h : ReachesFinish b s) (hc : b ≤ c) : ReachesFinish c s :=
  h.of_run (run_zero s) (.scratch ..) (by omega)

/-- P_SHORT leaves the keyed value of the class (R131 to R134). -/
theorem State.Hashing.shortPhase_eq (h : s.Hashing) :
    shortPhase s = .next (goto .finish (setOut
      (keyedValue (lengthClass s.latch.len) s.inputBytes s.latch.len (s.secretBytes s.secretOperand) s.seedOperand
        s.out) s)) := by
  have hK : s.secretKnown s.secretOperand 0 136 = true := h.secret_known_at (by have := h.secret_size; omega)
  rw [shortPhase, strategyReads_of_known (lengthClass_has _) le_rfl h.input_known h.secret_wf hK, andThen_next]

theorem State.Hashing.reachesFinish_of_short (h : s.Hashing) (hp : s.phase = .short) (hn : s.latch.len.toNat ≤ 16) :
    ReachesFinish 1 s := by
  have hmove : engineMove s = shortPhase s := by simp only [engineMove, hp]
  refine ⟨1, _, le_rfl, run_move (run_zero s) h.turn (hmove.trans h.shortPhase_eq), .scratch .., rfl, ?_⟩
  simp only [State.finished, State.hashValue, selectHash, goto_latch, setOut_latch, goto_out, setOut_out]
  cases hl : lengthClass s.latch.len with
  | len0 | len1_3 | len4_8 | len9_16 => rfl
  | len17_128 | len129_240 | long =>
    have hbounds := lengthClass_bounds hl
    simp only [LenClass.lenMin] at hbounds
    omega

/-! ### P_MID -/

/-- The MIX16 of the command in flight, of the chunk at `io` against its secret at `so`. -/
def State.mixAt (s : State) (io so : Nat) : Word :=
  mix16 s.inputBytes io (s.secretBytes s.secretOperand) so s.seedOperand

theorem SameFlight.mixAt (h : SameFlight s u) (io so : Nat) : u.mixAt io so = s.mixAt io so := by
  rw [State.mixAt, State.mixAt, h.inputBytes, h.secretOperand, h.secretBytes, h.seedOperand]

/-- A MIX16 of the sequencer within its bounds adds its value to `HACC`. -/
theorem State.Hashing.mixInto_eq (h : s.Hashing) {io so : Nat} (h1 : io + 16 ≤ s.latch.len.toNat)
    (h2 : so + 16 ≤ 136) : mixInto io so s = .next (setHacc (s.hacc + s.mixAt io so) (setOut (s.mixAt io so) s)) := by
  have hio : (BitVec.ofNat 64 io).toNat = io := by
    have := s.latch.len.isLt
    rw [BitVec.toNat_ofNat, Nat.mod_eq_of_lt (by omega)]
  have hz : so + 16 ≤ s.secretOperand.size := h2.trans h.secret_size.1
  rw [mixInto, exec, execMix16_within (by rwa [hio]) h.secret_wf hz, hio, h.input_known_at h1, h.secret_known_at hz]
  simp [State.mixAt]

/-- What round `i` of a mid strategy makes of `HACC` (43_dispatch_mid.md R150, R151). -/
def State.midRound (s : State) (i : Nat) (h : Word) : Word :=
  if s.latch.len.toNat ≤ 128 then
    h + s.mixAt (16 * i) (32 * i) + s.mixAt (s.latch.len.toNat - 16 * (i + 1)) (32 * i + 16)
  else if i < 7 then h + s.mixAt (16 * i) (16 * i)
  else if i = 7 then avalanche (h + s.mixAt (16 * i) (16 * i))
  else if i < s.latch.len.toNat / 16 then h + s.mixAt (16 * i) (16 * (i - 8) + 3)
  else h + s.mixAt (s.latch.len.toNat - 16) 119

/-- `HACC` after `k` rounds. -/
def State.midSum (s : State) (k : Nat) : Word :=
  (List.range k).foldl (fun h i => s.midRound i h) (s.latch.len * Config.engine.prime64_1)

theorem State.midSum_succ (s : State) (k : Nat) : s.midSum (k + 1) = s.midRound k (s.midSum k) := by
  rw [midSum, midSum, List.range_succ, List.foldl_concat]

theorem SameFlight.midRound (h : SameFlight s u) (i : Nat) (x : Word) : u.midRound i x = s.midRound i x := by
  simp only [State.midRound, h.latch, h.mixAt]

/-- A round of LEN17_128: the front and the back chunk (R150). -/
theorem State.Hashing.roundLen17_128_eq (h : s.Hashing) (h128 : s.latch.len.toNat ≤ 128)
    (hi : s.rnd.toNat < roundsLen17_128 s.latch.len.toNat) (h17 : 17 ≤ s.latch.len.toNat) :
    ∃ v, roundLen17_128 s = .next (countRound (setHacc (s.midRound s.rnd.toNat s.hacc) (setOut v s))) := by
  rw [roundsLen17_128] at hi
  have hflight (x v : Word) : SameFlight s (setHacc x (setOut v s)) := .scratch ..
  rw [roundLen17_128, h.mixInto_eq (by omega) (by omega), andThen_next,
    (h.sameFlight (hflight _ _)).mixInto_eq (by simp only [setHacc_latch, setOut_latch, setHacc_rnd, setOut_rnd]; omega)
      (by simp only [setHacc_rnd, setOut_rnd]; omega), andThen_next]
  simp only [(hflight _ _).mixAt, State.midRound, if_pos h128]
  exact ⟨_, rfl⟩

/-- A round of LEN129_240: one chunk, and the AVALANCHE after round 7 (R151). -/
theorem State.Hashing.roundLen129_240_eq (h : s.Hashing) (h129 : 129 ≤ s.latch.len.toNat)
    (h240 : s.latch.len.toNat ≤ 240) :
    ∃ v, roundLen129_240 s = .next (countRound (setHacc (s.midRound s.rnd.toNat s.hacc) (setOut v s))) := by
  unfold roundLen129_240 State.midRound
  rw [if_neg (show ¬ s.latch.len.toNat ≤ 128 by omega)]
  split_ifs
  all_goals
    rw [h.mixInto_eq]
    · exact ⟨_, rfl⟩
    all_goals omega

/-- A round of P_MID that remains. -/
theorem State.Hashing.midPhase_round (h : s.Hashing) (h17 : 17 ≤ s.latch.len.toNat) (h240 : s.latch.len.toNat ≤ 240)
    (hd : s.roundsDone = false) (hi : s.rnd.toNat < midRounds s.latch.len) :
    ∃ v, midPhase s = .next (countRound (setHacc (s.midRound s.rnd.toNat s.hacc) (setOut v s))) := by
  unfold midPhase
  rw [hd, if_neg Bool.false_ne_true]
  by_cases h128 : s.latch.len.toNat ≤ 128
  · rw [lengthClass_len17_128 h17 h128]
    rw [midRounds, if_pos h128] at hi
    exact h.roundLen17_128_eq h128 hi h17
  · have h129 : 129 ≤ s.latch.len.toNat := by omega
    rw [lengthClass_len129_240 h129 h240]
    exact h.roundLen129_240_eq h129 h240

/-- The state after `k` rounds of P_MID, the last MIX16 of which returned `v`. -/
def State.afterRounds (s : State) (k : Nat) (v : Word) : State :=
  { s with
    rnd := BitVec.ofNat 4 k, roundsDone := decide (k = midRounds s.latch.len), hacc := s.midSum k, out := v }

theorem State.afterRounds_rnd (s : State) {k : Nat} (hk : k < 16) (v : Word) : (s.afterRounds k v).rnd.toNat = k :=
  (BitVec.toNat_ofNat ..).trans (Nat.mod_eq_of_lt hk)

theorem engineMove_mid (h : s.phase = .mid) : engineMove s = midPhase s := by simp only [engineMove, h]

/-- Counting round `k` is one round more. -/
theorem State.countRound_afterRounds (s : State) {k : Nat} (hk : k < 16) (v w : Word) :
    countRound (setHacc (s.midSum (k + 1)) (setOut w (s.afterRounds k v))) = s.afterRounds (k + 1) w := by
  simp only [countRound, setHacc_rnd, setOut_rnd, s.afterRounds_rnd hk]
  simp only [setHacc, setOut, afterRounds, BitVec.ofNat_add]
  rfl

/-- After `k` rounds of P_MID `RND` has counted them and `HACC` is their sum. -/
theorem State.Hashing.run_rounds (h : s.Hashing) (hp : s.phase = .mid) (h17 : 17 ≤ s.latch.len.toNat)
    (h240 : s.latch.len.toNat ≤ 240) {k : Nat} (hk : k ≤ midRounds s.latch.len) :
    ∃ v, core.run k (startRounds s) = .next (s.afterRounds k v) := by
  obtain ⟨hpos, hmax⟩ := midRounds_bounds h17 h240
  induction k with
  | zero => exact ⟨s.out, by rw [run_zero, State.afterRounds, decide_eq_false hpos.ne]; rfl⟩
  | succ k ih =>
    obtain ⟨v, hrun⟩ := ih (by omega)
    have hflight : SameFlight s (s.afterRounds k v) := .scratch ..
    have hrnd := s.afterRounds_rnd (show k < 16 by omega) v
    have hu := h.sameFlight hflight
    obtain ⟨v', hmove⟩ := hu.midPhase_round h17 h240 (decide_eq_false (by omega)) (lt_of_eq_of_lt hrnd hk)
    rw [← engineMove_mid (by exact hp)] at hmove
    refine ⟨v', (run_move hrun hu.turn hmove).trans ?_⟩
    have hsum : (s.afterRounds k v).hacc = s.midSum k := rfl
    rw [hflight.midRound, hrnd, hsum, ← s.midSum_succ, s.countRound_afterRounds (by omega)]

/-- The rounds of LEN17_128 add up to the sum of its rule (R150). -/
theorem State.midSum_len17_128 (s : State) (h128 : s.latch.len.toNat ≤ 128) :
    s.midSum (midRounds s.latch.len) =
      sumLen17_128 s.inputBytes s.latch.len (s.secretBytes s.secretOperand) s.seedOperand := by
  rw [midRounds, if_pos h128, midSum, sumLen17_128]
  simp only [midRound, if_pos h128, mixAt]

/-- So do those of LEN129_240: eight rounds and the AVALANCHE, the further rounds, and the last one (R151). -/
theorem State.midSum_len129_240 (s : State) (h129 : 129 ≤ s.latch.len.toNat) :
    s.midSum (midRounds s.latch.len) =
      sumLen129_240 s.inputBytes s.latch.len (s.secretBytes s.secretOperand) s.seedOperand := by
  have h128 : ¬ s.latch.len.toNat ≤ 128 := by omega
  have hrange : List.range (s.latch.len.toNat / 16 + 1) =
      List.range 8 ++ (List.range (s.latch.len.toNat / 16 - 8)).map (8 + ·) ++ [s.latch.len.toNat / 16] := by
    rw [List.range_succ, ← List.range_add, Nat.add_sub_cancel' (by omega)]
  have hfirst : (List.range 8).foldl (fun h i => s.midRound i h) (s.latch.len * Config.engine.prime64_1) =
      avalanche ((List.range 8).foldl (fun h i => h + s.mixAt (16 * i) (16 * i))
        (s.latch.len * Config.engine.prime64_1)) := by
    simp only [midRound, if_neg h128]
    rfl
  have hfurther (x : Word) :
      (List.range (s.latch.len.toNat / 16 - 8)).foldl (fun h j => s.midRound (8 + j) h) x =
        (List.range (s.latch.len.toNat / 16 - 8)).foldl (fun h j => h + s.mixAt (16 * (j + 8)) (16 * j + 3)) x := by
    refine List.foldl_ext _ _ _ fun h j hj => ?_
    rw [List.mem_range] at hj
    rw [midRound, if_neg h128, if_neg (by omega), if_neg (by omega), if_pos (by omega), Nat.add_comm 8 j,
      Nat.add_sub_cancel]
  have hlast (x : Word) : s.midRound (s.latch.len.toNat / 16) x = x + s.mixAt (s.latch.len.toNat - 16) 119 := by
    rw [midRound, if_neg h128, if_neg (by omega), if_neg (by omega), if_neg (Nat.lt_irrefl _)]
  rw [midRounds, Config.engine_len17_128Max, if_neg h128, midSum, roundsLen129_240, hrange, List.foldl_append,
    List.foldl_append, List.foldl_map, hfirst, hfurther, List.foldl_cons, List.foldl_nil, hlast]
  rfl

theorem State.Hashing.reachesFinish_of_mid (h : s.Hashing) (hp : s.phase = .mid) (h17 : 17 ≤ s.latch.len.toNat)
    (h240 : s.latch.len.toNat ≤ 240) : ReachesFinish 17 (startRounds s) := by
  obtain ⟨v, hrun⟩ := h.run_rounds hp h17 h240 le_rfl
  have hflight : SameFlight s (s.afterRounds (midRounds s.latch.len) v) := .scratch ..
  have hmove : engineMove (s.afterRounds (midRounds s.latch.len) v) =
      .next (goto .finish (s.afterRounds (midRounds s.latch.len) v)) :=
    (engineMove_mid (s := s.afterRounds _ v) hp).trans (if_pos (decide_eq_true rfl))
  refine ⟨_, _, Nat.succ_le_succ (midRounds_bounds h17 h240).2, run_move hrun (hflight.turn h.turn) hmove,
    .scratch .., rfl, ?_⟩
  rw [show (startRounds s).hashValue = s.hashValue from SameFlight.hashValue (.scratch ..)]
  by_cases h128 : s.latch.len.toNat ≤ 128
  · have hl := lengthClass_len17_128 h17 h128
    simp only [State.finished, State.hashValue, selectHash, goto_latch, goto_hacc, State.afterRounds, hl,
      s.midSum_len17_128 h128, hashLen17_128]
  · have h129 : 129 ≤ s.latch.len.toNat := by omega
    have hl := lengthClass_len129_240 h129 h240
    simp only [State.finished, State.hashValue, selectHash, goto_latch, goto_hacc, State.afterRounds, hl,
      s.midSum_len129_240 h129, hashLen129_240]

end Sys2Proof.Machine

namespace Sys2Proof.Machine

variable {s t u : State}

/-! ### The full blocks of LONG -/

/-- The accumulators `a` after the first `k` stripes of block `b` of the command in flight (R173). -/
def State.stripesAt (s : State) (b k : Nat) (a : Vector Word 8) : Vector Word 8 :=
  stripes s.inputBytes (b * blockLen s.secretOperand.size) (s.secretBytes s.secretOperand) k a

/-- The accumulators after its first `b` full blocks (R173). -/
def State.blocksAt (s : State) (b : Nat) : Vector Word 8 :=
  blocks s.inputBytes (s.secretBytes s.secretOperand) s.secretOperand.size b initAcc

theorem SameFlight.stripesAt (h : SameFlight s u) (b k : Nat) (a : Vector Word 8) :
    u.stripesAt b k a = s.stripesAt b k a := by
  rw [State.stripesAt, State.stripesAt, h.inputBytes, h.secretOperand, h.secretBytes]

theorem SameFlight.blocksAt (h : SameFlight s u) (b : Nat) : u.blocksAt b = s.blocksAt b := by
  rw [State.blocksAt, State.blocksAt, h.inputBytes, h.secretOperand, h.secretBytes]

theorem State.stripesAt_succ (s : State) (b k : Nat) (a : Vector Word 8) :
    s.stripesAt b (k + 1) a =
      accumulate s.inputBytes (b * blockLen s.secretOperand.size + 64 * k) (s.secretBytes s.secretOperand) (8 * k)
        (s.stripesAt b k a) := by
  rw [stripesAt, stripesAt, stripes, stripes, List.range_succ, List.foldl_concat]

theorem State.blocksAt_succ (s : State) (b : Nat) :
    s.blocksAt (b + 1) = scramble (s.secretBytes s.secretOperand) s.secretOperand.size
      (s.stripesAt b (stripesPerBlock s.secretOperand.size) (s.blocksAt b)) := by
  rw [blocksAt, blocksAt, stripesAt, blocks, blocks, List.range_succ, List.foldl_concat]

/-- A stripe of the sequencer within its bounds. -/
theorem State.Hashing.stripeOf_eq (h : s.Hashing) {b : Nat}
    (h1 : b * blockLen s.secretOperand.size + 64 * s.str.toNat + 64 ≤ s.latch.len.toNat)
    (h2 : 8 * s.str.toNat + 64 ≤ s.secretOperand.size) :
    stripeOf b s = .next (setBlock s.blk (s.str + 1) (setAcc
      (accumulate s.inputBytes (b * blockLen s.secretOperand.size + 64 * s.str.toNat) (s.secretBytes s.secretOperand)
        (8 * s.str.toNat) s.acc) s)) := by
  have hio : (BitVec.ofNat 64 (b * blockLen s.secretOperand.size + 64 * s.str.toNat)).toNat =
      b * blockLen s.secretOperand.size + 64 * s.str.toNat := by
    have := s.latch.len.isLt
    rw [BitVec.toNat_ofNat, Nat.mod_eq_of_lt (by omega)]
  rw [stripeOf, exec, Config.engine_stripeLen, execAccumulate_within (by rwa [hio]) h.secret_wf h2, hio,
    h.input_known_at h1, h.secret_known_at h2]
  simp

/-- The first `k` of `m` stripes of block `b`, in a phase that issues the stripes below `m`. -/
theorem State.Hashing.run_stripes (h : s.Hashing) (h0 : s.str = 0) {b m : Nat}
    (hm : m ≤ stripesPerBlock s.secretOperand.size)
    (hin : b * blockLen s.secretOperand.size + 64 * m ≤ s.latch.len.toNat)
    (hmove : ∀ (k : BitVec 5) (a : Vector Word 8), k.toNat < m →
      engineMove (setBlock s.blk k (setAcc a s)) = stripeOf b (setBlock s.blk k (setAcc a s)))
    {k : Nat} (hk : k ≤ m) :
    core.run k s = .next (setBlock s.blk (BitVec.ofNat 5 k) (setAcc (s.stripesAt b k s.acc) s)) := by
  obtain ⟨hz1, hz2⟩ := h.secret_size
  obtain ⟨-, hspb, hsecret⟩ := stripesPerBlock_bounds hz1 hz2
  induction k with
  | zero => rw [run_zero, show BitVec.ofNat 5 0 = s.str from h0.symm]; rfl
  | succ k ih =>
    have hstr : (BitVec.ofNat 5 k).toNat = k := by rw [BitVec.toNat_ofNat]; omega
    have hflight (a : Vector Word 8) : SameFlight s (setBlock s.blk (BitVec.ofNat 5 k) (setAcc a s)) := .scratch ..
    have hstripe := (h.sameFlight (hflight (s.stripesAt b k s.acc))).stripeOf_eq (b := b)
      (by simp only [setBlock_str, hstr, setBlock_latch, setAcc_latch, (hflight _).secretOperand]; omega)
      (by simp only [setBlock_str, hstr, (hflight _).secretOperand]; omega)
    refine (run_move (ih (by omega)) ((hflight _).turn h.turn)
      ((hmove _ _ (lt_of_eq_of_lt hstr hk)).trans hstripe)).trans ?_
    simp only [setBlock_str, hstr, (hflight _).secretOperand, (hflight _).inputBytes, (hflight _).secretBytes,
      setBlock_acc, setAcc_acc, ← s.stripesAt_succ, BitVec.ofNat_add]
    rfl

theorem State.Hashing.scramble_eq (h : s.Hashing) :
    exec (.scramble s.secretOperand) s =
      .next (setAcc (scramble (s.secretBytes s.secretOperand) s.secretOperand.size s.acc) s) := by
  obtain ⟨hz, -⟩ := h.secret_size
  rw [exec, execScramble_within h.secret_wf, h.secret_known_at (by omega)]
  simp

theorem engineMove_blockStripe (hp : s.phase = .longBlock)
    (hb : s.blk.toNat < fullBlocks s.latch.len.toNat s.secretOperand.size)
    (hk : s.str.toNat < stripesPerBlock s.secretOperand.size) : engineMove s = stripeOf s.blk.toNat s := by
  simp only [engineMove, hp, longBlockPhase, if_pos hb, if_pos hk]

/-- A full block whose stripes are done gets its SCRAMBLE (R173). -/
theorem State.Hashing.engineMove_blockEnd (h : s.Hashing) (hp : s.phase = .longBlock)
    (hb : s.blk.toNat < fullBlocks s.latch.len.toNat s.secretOperand.size)
    (hk : s.str.toNat = stripesPerBlock s.secretOperand.size) :
    engineMove s = .next (setBlock (s.blk + 1) 0 (setAcc
      (scramble (s.secretBytes s.secretOperand) s.secretOperand.size s.acc) s)) := by
  simp only [engineMove, hp, longBlockPhase, if_pos hb, if_neg hk.not_lt, h.scramble_eq, andThen_next, setAcc_blk]

/-- A full block: its stripes and its SCRAMBLE. -/
theorem State.Hashing.run_block (h : s.Hashing) (hp : s.phase = .longBlock) (h0 : s.str = 0)
    (hb : s.blk.toNat < fullBlocks s.latch.len.toNat s.secretOperand.size) :
    core.run (stripesPerBlock s.secretOperand.size + 1) s = .next (setBlock (s.blk + 1) 0 (setAcc
      (scramble (s.secretBytes s.secretOperand) s.secretOperand.size
        (s.stripesAt s.blk.toNat (stripesPerBlock s.secretOperand.size) s.acc)) s)) := by
  obtain ⟨hz1, hz2⟩ := h.secret_size
  obtain ⟨hpos, hspb, -⟩ := stripesPerBlock_bounds hz1 hz2
  have hflight (k : BitVec 5) (a : Vector Word 8) : SameFlight s (setBlock s.blk k (setAcc a s)) := .scratch ..
  have hleft (k : BitVec 5) (a : Vector Word 8) :
      (setBlock s.blk k (setAcc a s)).blk.toNat <
        fullBlocks (setBlock s.blk k (setAcc a s)).latch.len.toNat
          (setBlock s.blk k (setAcc a s)).secretOperand.size := by
    rwa [(hflight k a).latch, (hflight k a).secretOperand]
  have hlast := blockStripe_within hb (Nat.sub_one_lt_of_lt hpos)
  have hrun := h.run_stripes (b := s.blk.toNat) h0 le_rfl (by omega) (fun k a hk =>
    engineMove_blockStripe hp (hleft k a) (by rwa [(hflight k a).secretOperand])) le_rfl
  have hstr : (BitVec.ofNat 5 (stripesPerBlock s.secretOperand.size)).toNat = stripesPerBlock s.secretOperand.size := by
    rw [BitVec.toNat_ofNat, Nat.mod_eq_of_lt (by omega)]
  have hend := (h.sameFlight (hflight (BitVec.ofNat 5 (stripesPerBlock s.secretOperand.size))
    (s.stripesAt s.blk.toNat (stripesPerBlock s.secretOperand.size) s.acc))).engineMove_blockEnd hp (hleft _ _)
      (by rw [(hflight _ _).secretOperand]; exact hstr)
  rw [(hflight _ _).secretOperand, (hflight _ _).secretBytes] at hend
  exact run_move hrun ((hflight _ _).turn h.turn) hend

/-- The first `b` full blocks. -/
theorem State.Hashing.run_blocks (h : s.Hashing) (hp : s.phase = .longBlock) {b : Nat}
    (hb : b ≤ fullBlocks s.latch.len.toNat s.secretOperand.size) :
    core.run (b * (stripesPerBlock s.secretOperand.size + 1)) (setBlock 0 0 (setAcc initAcc s)) =
      .next (setBlock (BitVec.ofNat 64 b) 0 (setAcc (s.blocksAt b) s)) := by
  obtain ⟨hz1, hz2⟩ := h.secret_size
  have hfull := fullBlocks_le s.latch.len.isLt hz1 hz2
  induction b with
  | zero => rw [Nat.zero_mul, run_zero]; rfl
  | succ b ih =>
    have hflight : SameFlight s (setBlock (BitVec.ofNat 64 b) 0 (setAcc (s.blocksAt b) s)) := .scratch ..
    have hblk : (BitVec.ofNat 64 b).toNat = b := by rw [BitVec.toNat_ofNat, Nat.mod_eq_of_lt (by omega)]
    have hblock := (h.sameFlight hflight).run_block hp rfl (lt_of_eq_of_lt hblk hb)
    rw [Nat.add_mul, Nat.one_mul, run_add _ _ (ih (by omega))]
    refine hblock.trans ?_
    rw [hflight.stripesAt, hflight.secretOperand, hflight.secretBytes, setBlock_blk, hblk, setBlock_acc, setAcc_acc,
      ← s.blocksAt_succ, BitVec.ofNat_add]
    rfl

end Sys2Proof.Machine

namespace Sys2Proof.Machine

variable {s t u : State}

/-! ### The last, partial block of LONG, its last stripe and MERGE -/

theorem engineMove_blocksDone (hp : s.phase = .longBlock)
    (hb : s.blk.toNat = fullBlocks s.latch.len.toNat s.secretOperand.size) :
    engineMove s = .next (goto .longTail s) := by
  simp only [engineMove, hp, longBlockPhase, if_neg hb.not_lt]

theorem engineMove_tailStripe (hp : s.phase = .longTail)
    (hk : s.str.toNat < tailStripes s.latch.len.toNat s.secretOperand.size) :
    engineMove s = stripeOf (fullBlocks s.latch.len.toNat s.secretOperand.size) s := by
  simp only [engineMove, hp, longTailPhase, if_pos hk]

theorem engineMove_tailDone (hp : s.phase = .longTail)
    (hk : s.str.toNat = tailStripes s.latch.len.toNat s.secretOperand.size) :
    engineMove s = .next (goto .longLast s) := by
  simp only [engineMove, hp, longTailPhase, if_neg hk.not_lt]

/-- P_LONG_TAIL: the full stripes of the last, partial block. -/
theorem State.Hashing.run_tail (h : s.Hashing) (hp : s.phase = .longTail) (h0 : s.str = 0) :
    core.run (tailStripes s.latch.len.toNat s.secretOperand.size + 1) s =
      .next (goto .longLast (setBlock s.blk (BitVec.ofNat 5 (tailStripes s.latch.len.toNat s.secretOperand.size))
        (setAcc (s.stripesAt (fullBlocks s.latch.len.toNat s.secretOperand.size)
          (tailStripes s.latch.len.toNat s.secretOperand.size) s.acc) s))) := by
  obtain ⟨hz1, hz2⟩ := h.secret_size
  have htail := tailStripes_lt (n := s.latch.len.toNat) hz1 hz2
  have hspb := (stripesPerBlock_bounds hz1 hz2).2.1
  have hin := tailStripes_le s.latch.len.toNat s.secretOperand.size
  have hflight (k : BitVec 5) (a : Vector Word 8) : SameFlight s (setBlock s.blk k (setAcc a s)) := .scratch ..
  have hmove (k : BitVec 5) (a : Vector Word 8) (hk : k.toNat < tailStripes s.latch.len.toNat s.secretOperand.size) :
      engineMove (setBlock s.blk k (setAcc a s)) =
        stripeOf (fullBlocks s.latch.len.toNat s.secretOperand.size) (setBlock s.blk k (setAcc a s)) := by
    have hmove := engineMove_tailStripe (s := setBlock s.blk k (setAcc a s)) hp
    rw [(hflight k a).latch, (hflight k a).secretOperand] at hmove
    exact hmove hk
  refine run_move (h.run_stripes h0 htail.le (by omega) hmove le_rfl) ((hflight _ _).turn h.turn)
    (engineMove_tailDone hp ?_)
  rw [(hflight _ _).latch, (hflight _ _).secretOperand, setBlock_str, BitVec.toNat_ofNat, Nat.mod_eq_of_lt (by omega)]

/-- P_LONG_LAST: the stripe at the end of the input (R173). -/
theorem State.Hashing.engineMove_longLast (h : s.Hashing) (hp : s.phase = .longLast) (hn : 64 ≤ s.latch.len.toNat) :
    engineMove s = .next (goto .merge (setAcc
      (accumulate s.inputBytes (s.latch.len.toNat - 64) (s.secretBytes s.secretOperand)
        (s.secretOperand.size - 64 - 7) s.acc) s)) := by
  obtain ⟨hz, -⟩ := h.secret_size
  have hio : (s.latch.len - BitVec.ofNat 64 64).toNat = s.latch.len.toNat - 64 := by bv_omega
  have hin : s.latch.len.toNat - 64 + 64 ≤ s.latch.len.toNat := by omega
  have hsecret : s.secretOperand.size - 64 - 7 + 64 ≤ s.secretOperand.size := by omega
  simp only [engineMove, hp, longLastPhase, exec]
  rw [execAccumulate_within (by rwa [hio]) h.secret_wf hsecret, hio, h.input_known_at hin, h.secret_known_at hsecret]
  simp

/-- P_MERGE leaves the sum of MERGE (R174). -/
theorem State.Hashing.engineMove_merge (h : s.Hashing) (hp : s.phase = .merge) :
    engineMove s =
      .next (goto .finish (setHacc (mergeSum s.latch.len (s.secretBytes s.secretOperand) s.acc) s)) := by
  obtain ⟨hz, -⟩ := h.secret_size
  have hsecret : 11 + 64 ≤ s.secretOperand.size := by omega
  simp only [engineMove, hp, mergePhase]
  rw [readSecret_of_known h.secret_wf hsecret (h.secret_known_at hsecret), andThen_next]

theorem State.Hashing.reachesFinish_of_merge (h : s.Hashing) (hp : s.phase = .merge)
    (h241 : 241 ≤ s.latch.len.toNat)
    (hacc : s.acc = stripeLoop s.inputBytes s.latch.len.toNat (s.secretBytes s.secretOperand) s.secretOperand.size
      initAcc) : ReachesFinish 1 s := by
  have hl := lengthClass_long h241
  have hflight (x : Word) : SameFlight s (goto .finish (setHacc x s)) := .scratch ..
  have hfinished (x : Word) : (goto .finish (setHacc x s)).finished = avalanche x := by
    simp only [State.finished, goto_latch, setHacc_latch, hl, goto_hacc, setHacc_hacc]
  have hvalue : s.hashValue =
      hashLong s.inputBytes s.latch.len (s.secretBytes s.secretOperand) s.secretOperand.size := by
    simp only [State.hashValue, selectHash, hl]
  refine ⟨1, _, le_rfl, run_move (run_zero s) h.turn (h.engineMove_merge hp), hflight _, goto_phase .., ?_⟩
  rw [hfinished, hvalue, hashLong, mergeAcc, hacc]

theorem State.Hashing.reachesFinish_of_longLast (h : s.Hashing) (hp : s.phase = .longLast)
    (h241 : 241 ≤ s.latch.len.toNat)
    (hacc : s.acc = s.stripesAt (fullBlocks s.latch.len.toNat s.secretOperand.size)
      (tailStripes s.latch.len.toNat s.secretOperand.size)
      (s.blocksAt (fullBlocks s.latch.len.toNat s.secretOperand.size))) : ReachesFinish 2 s := by
  have hflight (a : Vector Word 8) : SameFlight s (goto .merge (setAcc a s)) := .scratch ..
  refine .of_run (run_move (run_zero s) h.turn (h.engineMove_longLast hp (by omega))) (hflight _)
    ((h.sameFlight (hflight _)).reachesFinish_of_merge rfl h241 ?_) le_rfl
  rw [goto_acc, setAcc_acc, hacc, (hflight _).inputBytes, (hflight _).latch, (hflight _).secretOperand,
    (hflight _).secretBytes]
  rfl

theorem State.Hashing.reachesFinish_of_longTail (h : s.Hashing) (hp : s.phase = .longTail)
    (h241 : 241 ≤ s.latch.len.toNat) (h0 : s.str = 0)
    (hacc : s.acc = s.blocksAt (fullBlocks s.latch.len.toNat s.secretOperand.size)) :
    ReachesFinish (tailStripes s.latch.len.toNat s.secretOperand.size + 3) s := by
  have hflight (b : Word) (k : BitVec 5) (a : Vector Word 8) :
      SameFlight s (goto .longLast (setBlock b k (setAcc a s))) := .scratch ..
  refine .of_run (h.run_tail hp h0) (hflight _ _ _)
    ((h.sameFlight (hflight _ _ _)).reachesFinish_of_longLast rfl h241 ?_) (by omega)
  rw [goto_acc, setBlock_acc, setAcc_acc, hacc, (hflight _ _ _).latch, (hflight _ _ _).secretOperand,
    (hflight _ _ _).stripesAt, (hflight _ _ _).blocksAt]

/-- The transitions of LONG fit the bound of 70_reset_and_hazards.md R267. -/
theorem longTransitions_le {n Z : Nat} (h1 : 136 ≤ Z) (h2 : Z ≤ 192) :
    fullBlocks n Z * (stripesPerBlock Z + 1) + tailStripes n Z ≤ n / 64 + n / 576 := by
  have hspb := (stripesPerBlock_bounds h1 h2).1
  have hstripes := tailStripes_le n Z
  rw [blockLen_eq, Nat.mul_left_comm] at hstripes
  have hblocks : fullBlocks n Z * 9 ≤ fullBlocks n Z * stripesPerBlock Z := Nat.mul_le_mul_left _ hspb
  rw [Nat.mul_add_one]
  omega

theorem State.Hashing.reachesFinish_of_long (h : s.Hashing) (hp : s.phase = .longBlock)
    (h241 : 241 ≤ s.latch.len.toNat) :
    ReachesFinish (s.latch.len.toNat / 64 + s.latch.len.toNat / 576 + 4) (setBlock 0 0 (setAcc initAcc s)) := by
  obtain ⟨hz1, hz2⟩ := h.secret_size
  have hbound := longTransitions_le (n := s.latch.len.toNat) hz1 hz2
  have hblk : (BitVec.ofNat 64 (fullBlocks s.latch.len.toNat s.secretOperand.size)).toNat =
      fullBlocks s.latch.len.toNat s.secretOperand.size := by
    have := fullBlocks_le s.latch.len.isLt hz1 hz2
    rw [BitVec.toNat_ofNat, Nat.mod_eq_of_lt (by omega)]
  have hblocks (b : Word) (a : Vector Word 8) : SameFlight s (setBlock b 0 (setAcc a s)) := .scratch ..
  have htail (b : Word) (a : Vector Word 8) : SameFlight s (goto .longTail (setBlock b 0 (setAcc a s))) := .scratch ..
  have hdone := engineMove_blocksDone
    (s := setBlock (BitVec.ofNat 64 (fullBlocks s.latch.len.toNat s.secretOperand.size)) 0
      (setAcc (s.blocksAt (fullBlocks s.latch.len.toNat s.secretOperand.size)) s))
    hp (by rw [(hblocks _ _).latch, (hblocks _ _).secretOperand]; exact hblk)
  refine .of_run (run_move (h.run_blocks hp le_rfl) ((hblocks _ _).turn h.turn) hdone) (.scratch ..)
    ((h.sameFlight (htail _ _)).reachesFinish_of_longTail rfl h241 rfl ?_) ?_
  · rw [goto_acc, setBlock_acc, setAcc_acc, (htail _ _).latch, (htail _ _).secretOperand, (htail _ _).blocksAt]
  · rw [(htail _ _).latch, (htail _ _).secretOperand]
    omega

end Sys2Proof.Machine

namespace Sys2Proof.Machine

variable {s t u : State}

/-! ### From P_DISPATCH to DONE -/

/-- The transitions from P_SHORT, P_MID and P_LONG_BLOCK to P_FINISH, by the length. -/
theorem State.Hashing.dispatch_reachesFinish (h : s.Hashing) :
    ∃ t, dispatchPhase s = .next t ∧ SameFlight (route .dispatch s) t ∧
      ReachesFinish (s.latch.len.toNat / 64 + s.latch.len.toNat / 576 + 17) t := by
  have hroute (p : Phase) : (route p s).Hashing :=
    { turn := h.turn, secret_wf := h.secret_wf, input_known := h.input_known, secret_known := h.secret_known }
  refine ⟨_, dispatchPhase_eq s, ?_⟩
  split_ifs with h16 h240
  · exact ⟨.scratch .., ((hroute .short).reachesFinish_of_short rfl h16).mono (by omega)⟩
  · exact ⟨.scratch .., ((hroute .mid).reachesFinish_of_mid rfl (Nat.not_le.1 h16) h240).mono (by omega)⟩
  · exact ⟨.scratch .., ((hroute .longBlock).reachesFinish_of_long rfl (Nat.not_le.1 h240)).mono
      (Nat.add_le_add_left (show 4 ≤ 17 by omega) _)⟩

/-- `u` is the engine in DONE after the command that `s` has in flight, with `v` in `RESULT` and the class of the length
in `LCLASS` (46_commands.md R210); what is not scratch is as in `s`. -/
def CompletedWith (v : Word) (s u : State) : Prop :=
  u.phase = .done ∧ SameFlight { s with
    status := { state := .done, fcode := fcodeNone, lclass := (lengthClass s.latch.len).code }
    result := v
    nextClass := (lengthClass s.latch.len).code } u

/-- What the host can read of it, and what the host still has to do. -/
theorem CompletedWith.host_view {v : Word} (h : CompletedWith v s u) :
    u.status = { state := .done, fcode := 0, lclass := (lengthClass s.latch.len).code } ∧ u.result = v ∧
      u.inbox = s.inbox ∧ u.reads = s.reads := by
  obtain ⟨-, h⟩ := h
  cases h
  exact ⟨rfl, rfl, rfl, rfl⟩

/-- P_FINISH returns the hash, where no byte read was unspecified. -/
theorem ReachesFinish.completes {b : Nat} (h : ReachesFinish b s) (hturn : s.EnginesTurn) (ht : s.tainted = false)
    (hc : s.nextClass = (lengthClass s.latch.len).code) :
    ∃ (k : Nat) (u : State), k ≤ b + 1 ∧ core.run k s = .next u ∧ CompletedWith s.hashValue s u := by
  obtain ⟨k, u, hk, hrun, hflight, hp, hv⟩ := h
  have hmove : engineMove u = .next (complete (setOut u.finished u)) := by
    simp only [engineMove, hp, finishPhase_eq]
  refine ⟨k + 1, _, Nat.succ_le_succ hk, run_move hrun (hflight.turn hturn) hmove, complete_phase _, ?_⟩
  rw [hv]
  cases hflight
  simp only [complete, setOut, ht, hc]
  exact .scratch ..

theorem CompletedWith.of_route {v : Word} {p : Phase} (hflight : SameFlight (route p s) t) (h : CompletedWith v t u) :
    CompletedWith v s u := by
  obtain ⟨hp, hu⟩ := h
  refine ⟨hp, ?_⟩
  cases hflight
  cases hu
  exact .scratch ..

theorem hashValue_route (p : Phase) (s : State) : (route p s).hashValue = s.hashValue := by
  have hS : (route p s).secretBytes s.secretOperand = s.secretBytes s.secretOperand := by cases s.secretOperand <;> rfl
  rw [State.hashValue, State.hashValue, show (route p s).secretOperand = s.secretOperand from rfl, hS]
  rfl

/-- A command at P_DISPATCH completes with its hash, and leaves two transitions of the bound of
70_reset_and_hazards.md R267 for P_CHECK and P_DERIVE. -/
theorem State.Hashing.completes (h : s.Hashing) (hp : s.phase = .dispatch) (ht : s.tainted = false) :
    ∃ (k : Nat) (u : State), k + 2 ≤ transitionBound s.latch.len.toNat ∧ core.run k s = .next u ∧
      CompletedWith s.hashValue s u := by
  obtain ⟨t, hmove, hflight, hfinish⟩ := h.dispatch_reachesFinish
  have hdispatch : engineMove s = .next t := by simp only [engineMove, hp, hmove]
  have hclass : t.tainted = false ∧ t.nextClass = (lengthClass t.latch.len).code := by
    cases hflight
    exact ⟨ht, rfl⟩
  obtain ⟨k, u, hk, hrun, hu⟩ := hfinish.completes (hflight.turn h.turn) hclass.1 hclass.2
  refine ⟨1 + k, u, ?_, (run_add 1 k (run_move (run_zero s) h.turn hdispatch)).trans hrun, ?_⟩
  · rw [transitionBound]
    omega
  · rw [hflight.hashValue, hashValue_route] at hu
    exact hu.of_route hflight

/-! ### HASH64 from its acceptance on -/

/-- A HASH64 at P_DISPATCH: accepted, its range checked, `ESEC` derived from its seed. -/
def State.derived64 (s : State) : State :=
  { accept .hash64 s with phase := .dispatch, esec := deriveSecret ksecBytes s.seed }

/-- P_CHECK of a HASH64 whose range is in bounds (60_exceptions.md R231). -/
theorem checkPhase_hash64 (hc : s.latch.cmd = .hash64) (hlen : s.latch.len.toNat ≤ s.latch.bufsz.toNat) :
    checkPhase s = .next (goto .derive s) := by
  have hbounds : ¬ s.latch.bufsz < s.latch.len := by rw [BitVec.lt_def]; omega
  simp only [checkPhase, hc, if_neg hbounds]

/-- P_CHECK and P_DERIVE of a HASH64 whose range is in bounds. -/
theorem run_accept_hash64 (hturn : (accept .hash64 s).EnginesTurn) (hlen : s.len.toNat ≤ s.bufsz.toNat) :
    core.run 2 (accept .hash64 s) = .next s.derived64 :=
  run_move (run_move (run_zero _) hturn (checkPhase_hash64 (s := accept .hash64 s) rfl hlen)) hturn rfl

/-- What HASH64 has to return is `hash64` of its operands, the short strategies under the Secret Table and LONG under
the effective secret (46_commands.md R210, 41_deriver.md R121). -/
theorem hashValue_derived64 (s : State) :
    s.derived64.hashValue = hash64 Config.engine.shortPathSecret s.inputBytes s.len s.seed := by
  have hS : s.derived64.secretOperand = secretFor .base .hash64 s.seclen.toNat (lengthClass s.len) := rfl
  rw [State.hashValue, hS, hash64]
  unfold selectHash
  simp only [show s.derived64.latch.len = s.len from rfl]
  cases lengthClass s.len <;> rfl

theorem State.Hashing.of_derived64 (hturn : (accept .hash64 s).EnginesTurn)
    (hk : Mem.known s.input 0 s.len.toNat = true) : s.derived64.Hashing := by
  have hS := secretOperand_of_hash64 (s := s.derived64) rfl
  exact {
    turn := hturn
    secret_wf := by obtain hS | hS := hS <;> rw [hS] <;> rfl
    input_known := hk
    secret_known := by obtain hS | hS := hS <;> rw [hS] <;> rfl }

/-- A HASH64 whose range is in bounds and written, accepted with the engine to move, completes with the hash of its
operands within the bound of 70_reset_and_hazards.md R267. -/
theorem accept_hash64_completes (hturn : (accept .hash64 s).EnginesTurn) (hlen : s.len.toNat ≤ s.bufsz.toNat)
    (hk : Mem.known s.input 0 s.len.toNat = true) :
    ∃ (k : Nat) (u : State), k ≤ transitionBound s.len.toNat ∧ core.run k (accept .hash64 s) = .next u ∧
      CompletedWith (hash64 Config.engine.shortPathSecret s.inputBytes s.len s.seed) s.derived64 u := by
  obtain ⟨k, u, hbound, hrun, hu⟩ := (State.Hashing.of_derived64 hturn hk).completes rfl rfl
  refine ⟨2 + k, u, (Nat.add_comm 2 k).trans_le hbound, (run_add 2 k (run_accept_hash64 hturn hlen)).trans hrun, ?_⟩
  rwa [hashValue_derived64] at hu

/-! ### The host script `HASH` -/

theorem issueHash_of_ready (hr : s.ready) (cmd : HashCommand) : issueHash cmd s = .next (accept cmd s) := by
  obtain hr | hr := hr <;> simp only [issueHash, hr]

/-- The write of the word of HASH64 to `CMD` in a state that accepts commands (46_commands.md R214). -/
theorem step_of_write_hash64 (hr : s.ready) {rest : List HostMove} (hi : s.inbox = .write 0x000 .b4 1 :: rest) :
    step s = .next (accept .hash64 { s with inbox := rest }) := by
  have hwrite : hostWrite 0x000 .b4 1 { s with inbox := rest } = issueHash .hash64 { s with inbox := rest } := rfl
  rw [step_of_write hi, hwrite, issueHash_of_ready (s := { s with inbox := rest }) hr]

/-- The four writes of the script: the operands, and the command that latches them. -/
theorem run_hashScript (hr : s.ready) {seed n : Word} (hi : s.inbox = hashScript seed n) :
    core.run 4 s = .next (accept .hash64 { s with
      seed := seed, len := n, bufsz := n, inbox := [.wait, .read 0x030 .b8] }) := by
  have hb : s.status.state ≠ .busy := by obtain hr | hr := hr <;> simp [hr]
  refine (run_succ_of_next ((operandWritesByState s seed _).1 hi) 3).trans ?_
  refine (run_succ_of_next ((operandWritesByState _ n _).2.1 rfl) 2).trans ?_
  refine (run_succ_of_next ((operandWritesByState _ n _).2.2.1 rfl) 1).trans ?_
  simp only [if_neg hb]
  exact (run_succ_of_next (step_of_write_hash64 (by exact hr) rfl) 0).trans (run_zero _)

/-- The poll that ends WAIT reads `STATUS` (30_encoding.md R88). -/
theorem step_of_wait_ended {rest : List HostMove} (hi : s.inbox = .wait :: rest) (hb : s.status.state ≠ .busy) :
    step s = .next { s with inbox := rest, reads := .reg 0x008 .b4 (s.status.word.setWidth 64) :: s.reads } := by
  have hstep : step s = hostRead 0x008 .b4 { s with inbox := rest } := by
    simp only [step, turn, hi, hostWait]
    split
    · next h => exact absurd h hb
    all_goals rfl
  exact hstep.trans (hostRead_of_target (r := .status) rfl _)

/-- The two reads that end the script, of a command that has completed: `STATUS` by the poll, and `RESULT`. -/
theorem run_wait_result (hi : s.inbox = [.wait, .read 0x030 .b8]) (hs : s.status.state = .done) :
    core.run 2 s = .next { s with
      inbox := []
      reads := .reg 0x030 .b8 s.result :: .reg 0x008 .b4 (s.status.word.setWidth 64) :: s.reads } := by
  have hpoll := step_of_wait_ended hi (by simp [hs])
  have hresult := step_of_read_value (off := 0x030) (w := .b8) (r := .result) (x := s.result) (b := false)
    (s := { s with inbox := [.read 0x030 .b8], reads := .reg 0x008 .b4 (s.status.word.setWidth 64) :: s.reads })
    rfl rfl (if_pos hs)
  exact (run_succ_of_next hpoll 1).trans (run_succ_of_next hresult 0)

/-- Settles O20: the writes of the script accept a HASH64, which completes under WAIT; the poll that ends WAIT reads
DONE, and `RESULT` holds the hash. -/
theorem hashScriptReadsHash : Obligations.HashScriptReadsHash := by
  intro s seed n hr hi hk
  obtain ⟨k, u, -, hrun, hu⟩ := accept_hash64_completes
    (s := { s with seed := seed, len := n, bufsz := n, inbox := [.wait, .read 0x030 .b8] })
    ⟨rfl, .inr ⟨_, rfl⟩⟩ le_rfl hk
  obtain ⟨hstatus, hresult, hinbox, hreads⟩ := hu.host_view
  have hcompleted := (run_add _ _ (run_hashScript hr hi)).trans hrun
  have hread := run_wait_result hinbox (congrArg Status.state hstatus)
  refine ⟨4 + k + 2, _, (run_add _ _ hcompleted).trans hread, rfl, hstatus, ?_⟩
  rw [hresult, hreads]
  rfl

end Sys2Proof.Machine

/-! PROOFS. The statements of 40_primitives.md: the two products, the byte swaps and MIX16. -/

namespace Sys2Proof.Machine

/-! ### The exact products -/

theorem lowHalf_toNat (x : Word) : (lowHalf x).toNat = x.toNat % 2 ^ 32 := BitVec.extractLsb'_toNat 0 32 x

theorem highHalf_toNat (x : Word) : (highHalf x).toNat = x.toNat / 2 ^ 32 := by
  rw [highHalf, BitVec.extractLsb'_toNat, Nat.shiftRight_eq_div_pow, Nat.mod_eq_of_lt (by omega)]

/-- Two numbers of `n` bits multiply in `m` bits without a wrap, if `m` is twice `n` or more. -/
theorem setWidth_mul_setWidth_toNat {n m : Nat} (h : n + n ≤ m) (a b : BitVec n) :
    (a.setWidth m * b.setWidth m).toNat = a.toNat * b.toNat := by
  have hprod : a.toNat * b.toNat < 2 ^ m :=
    calc a.toNat * b.toNat < 2 ^ n * 2 ^ n := Nat.mul_lt_mul'' a.isLt b.isLt
      _ = 2 ^ (n + n) := (Nat.pow_add 2 n n).symm
      _ ≤ 2 ^ m := Nat.pow_le_pow_right Nat.two_pos h
  have hwiden (c : BitVec n) : (c.setWidth m).toNat = c.toNat := BitVec.toNat_setWidth_of_le (by omega)
  rw [BitVec.toNat_mul, hwiden, hwiden, Nat.mod_eq_of_lt hprod]

theorem mul32_toNat (x : Word) : (mul32 x).toNat = (x.toNat % 2 ^ 32) * (x.toNat / 2 ^ 32) := by
  rw [mul32, setWidth_mul_setWidth_toNat (by decide), lowHalf_toNat, highHalf_toNat]

theorem mul32_eq_zero {x : Word} (h : lowHalf x = 0 ∨ highHalf x = 0) : mul32 x = 0 := by
  obtain hlow | hhigh := h
  · simp [mul32, hlow]
  · simp [mul32, hhigh]

/-- Settles O38: a product of two 32-bit numbers fits in 64 bits. -/
theorem mul32IsTheExactProduct : Obligations.Mul32IsTheExactProduct :=
  ⟨mul32_toNat, fun _ => mul32_eq_zero, by decide, by decide⟩

theorem fold64_toNat (a b : Word) :
    (fold64 a b).toNat = (a.toNat * b.toNat % 2 ^ 64) ^^^ (a.toNat * b.toNat / 2 ^ 64) := by
  have hhigh : a.toNat * b.toNat / 2 ^ 64 < 2 ^ 64 := Nat.div_lt_of_lt_mul (Nat.mul_lt_mul'' a.isLt b.isLt)
  rw [fold64, BitVec.toNat_xor, BitVec.extractLsb'_toNat, BitVec.extractLsb'_toNat,
    setWidth_mul_setWidth_toNat (by decide), Nat.shiftRight_zero, Nat.shiftRight_eq_div_pow, Nat.mod_eq_of_lt hhigh]

theorem fold64_comm (a b : Word) : fold64 a b = fold64 b a := by rw [fold64, fold64, BitVec.mul_comm]

theorem fold64_zero (a : Word) : fold64 a 0 = 0 := BitVec.eq_of_toNat_eq (by simp [fold64_toNat])

theorem fold64_one (a : Word) : fold64 a 1 = a :=
  BitVec.eq_of_toNat_eq (by simp [fold64_toNat, Nat.mod_eq_of_lt a.isLt, Nat.div_eq_of_lt a.isLt])

/-- Settles O39: a product of two 64-bit numbers fits in 128 bits, and its halves are its remainder and quotient by
`2 ^ 64`. -/
theorem fold64FoldsTheProduct : Obligations.Fold64FoldsTheProduct :=
  ⟨fold64_toNat, fold64_comm, fun a => ⟨fold64_zero a, fold64_one a⟩, by decide, by decide, by decide, by decide⟩

/-! ### The byte swaps -/

/-- Of a string of bytes with `b` appended, byte 0 is `b`, and byte `k + 1` is byte `k` of the string. -/
theorem extractLsb'_append_byte_zero {n : Nat} (x : BitVec n) (b : Byte) : (x ++ b).extractLsb' (8 * 0) 8 = b :=
  BitVec.extractLsb'_append_eq_right

theorem extractLsb'_append_byte_succ {n : Nat} (x : BitVec n) (b : Byte) (k : Nat) :
    (x ++ b).extractLsb' (8 * (k + 1)) 8 = x.extractLsb' (8 * k) 8 :=
  BitVec.extractLsb'_append_eq_of_le (by omega)

/-- Byte 0 of a single byte, the last of a string. -/
theorem extractLsb'_byte_zero (b : Byte) : b.extractLsb' (8 * 0) 8 = b := BitVec.extractLsb'_eq_self

theorem swap32_byte (x : Half) {k : Nat} (hk : k < 4) :
    (swap32 x).extractLsb' (8 * k) 8 = x.extractLsb' (8 * (3 - k)) 8 := by
  rw [swap32]
  interval_cases k <;>
    simp only [extractLsb'_append_byte_zero, extractLsb'_append_byte_succ, extractLsb'_byte_zero]

theorem byteOf_swap64 (x : Word) {k : Nat} (hk : k < 8) : byteOf (swap64 x) k = byteOf x (7 - k) := by
  rw [swap64, byteOf]
  interval_cases k <;>
    simp only [extractLsb'_append_byte_zero, extractLsb'_append_byte_succ, extractLsb'_byte_zero]

/-- Settles O40: byte by byte, down the appended bytes. -/
theorem swapsReverseTheBytes : Obligations.SwapsReverseTheBytes :=
  ⟨fun x _ => swap32_byte x, fun x _ => byteOf_swap64 x, by decide, by decide⟩

/-! ### MIX16 -/

variable {s : State} {io : Word} {S : SecretOperand} {so : Nat} {seed : Word}

/-- MIX16 over written bytes (40_primitives.md R108). -/
theorem exec_mix16_of_known (hio : io.toNat + 16 ≤ s.latch.len.toNat) (hS : S.wf = true) (hso : so + 16 ≤ S.size)
    (hin : Mem.known s.input io.toNat 16 = true) (hsec : s.secretKnown S so 16 = true) :
    exec (.mix16 io S so seed) s = .next (setOut (mix16 s.inputBytes io.toNat (s.secretBytes S) so seed) s) := by
  rw [exec, execMix16, readInput_of_known hio hin, andThen_next, readSecret_of_known hS hso hsec, andThen_next]

theorem exec_mix16_overread (h : s.latch.len.toNat < io.toNat + 16) :
    exec (.mix16 io S so seed) s = .fault (.inputOverread io.toNat) := by
  rw [exec, execMix16, readInput_outside (Nat.not_le.2 h), andThen_fault]

/-- Settles O31: the two reads change nothing over written bytes, and the first one stops beyond `LEN`. -/
theorem mix16ReturnsTheFold : Obligations.Mix16ReturnsTheFold := fun _ _ _ _ _ =>
  ⟨exec_mix16_of_known, exec_mix16_overread⟩

end Sys2Proof.Machine

/-! PROOFS. The statements of 41_deriver.md: what DERIVE writes, how it is undone, and the two readings of
`SHORT_PATH_SECRET`. -/

namespace Sys2Proof.Machine

/-! ### The bytes of a word (20_memory.md R52) -/

theorem byteOf_rd64 (X : Bytes) (o : Nat) {k : Nat} (hk : k < 8) : byteOf (rd64 X o) k = X (o + k) := by
  rw [rd64, byteOf]
  interval_cases k <;>
    simp only [extractLsb'_append_byte_zero, extractLsb'_append_byte_succ, extractLsb'_byte_zero, Nat.add_zero]

/-- A word is its eight bytes. -/
theorem eq_of_byteOf_eq {v w : Word} (h : ∀ k < 8, byteOf v k = byteOf w k) : v = w := by
  apply BitVec.eq_of_getLsbD_eq
  intro i hi
  have hbit (x : Word) : x.getLsbD i = (byteOf x (i / 8)).getLsbD (i % 8) := by
    rw [byteOf, BitVec.getLsbD_extractLsb', Nat.div_add_mod, decide_eq_true (Nat.mod_lt i (by decide)), Bool.true_and]
  rw [hbit v, hbit w, h (i / 8) (by omega)]

theorem lowHalf_rd64 (X : Bytes) (o : Nat) : lowHalf (rd64 X o) = rd32 X o := (readsAreLittleEndian X o).2.2

theorem highHalf_rd64 (X : Bytes) (o : Nat) : highHalf (rd64 X o) = rd32 X (o + 4) := by
  rw [rd64_eq_append, highHalf, BitVec.extractLsb'_append_eq_left]

/-! ### DERIVE -/

theorem bytesOf_eq_getElem (v : Vector Byte 192) {i : Nat} (hi : i < 192) : bytesOf v i = v[i] := by
  rw [bytesOf, List.getD_eq_getElem _ _ (by simpa using hi), Vector.getElem_toList]

theorem ksecBytes_eq_bytesOf : ksecBytes = bytesOf Config.engine.ksec := rfl

theorem deriveSecret_getElem (S : Bytes) (seed : Word) {i : Nat} (hi : i < 192) :
    (deriveSecret S seed)[i] = byteOf (derivedWord S seed (i / 8)) (i % 8) := by
  rw [deriveSecret, Vector.getElem_ofFn, derivedByte]

/-- Each of the 24 words of the derived secret reads back as the word the deriver wrote there (R120). -/
theorem rd64_deriveSecret (S : Bytes) (seed : Word) {w : Nat} (hw : w < 24) :
    rd64 (bytesOf (deriveSecret S seed)) (8 * w) = derivedWord S seed w := by
  apply eq_of_byteOf_eq
  intro k hk
  rw [byteOf_rd64 _ _ hk, bytesOf_eq_getElem _ (by omega), deriveSecret_getElem, show (8 * w + k) / 8 = w by omega,
    show (8 * w + k) % 8 = k by omega]

/-- The deriver writes the secret whose 24 words are those it computes. -/
theorem deriveSecret_eq_of_words {S : Bytes} {seed : Word} {v : Vector Byte 192}
    (h : ∀ w < 24, derivedWord S seed w = rd64 (bytesOf v) (8 * w)) : deriveSecret S seed = v := by
  apply Vector.ext
  intro i hi
  rw [deriveSecret_getElem, h (i / 8) (by omega), byteOf_rd64 _ _ (Nat.mod_lt i (by decide)), Nat.div_add_mod,
    bytesOf_eq_getElem v hi]

/-- The seed is added to the first word of block `b` (R120). -/
theorem rd64_deriveSecret_first (S : Bytes) (seed : Word) {b : Nat} (hb : b < 12) :
    rd64 (bytesOf (deriveSecret S seed)) (16 * b) = rd64 S (16 * b) + seed := by
  have hword := rd64_deriveSecret S seed (w := 2 * b) (by omega)
  rwa [derivedWord, if_pos (by omega), show 8 * (2 * b) = 16 * b by omega] at hword

/-- The seed is subtracted from the second word of block `b` (R120). -/
theorem rd64_deriveSecret_second (S : Bytes) (seed : Word) {b : Nat} (hb : b < 12) :
    rd64 (bytesOf (deriveSecret S seed)) (16 * b + 8) = rd64 S (16 * b + 8) - seed := by
  have hword := rd64_deriveSecret S seed (w := 2 * b + 1) (by omega)
  rwa [derivedWord, if_neg (by omega), show 8 * (2 * b + 1) = 16 * b + 8 by omega] at hword

/-- Settles O29: DERIVE puts the derived secret into `ESEC`, and the two words of each of its blocks are read back. -/
theorem deriveWritesTwelveBlocks : Obligations.DeriveWritesTwelveBlocks := fun _ seed =>
  ⟨deriveSecret ksecBytes seed, rfl, fun _ hb =>
    ⟨rd64_deriveSecret_first ksecBytes seed hb, rd64_deriveSecret_second ksecBytes seed hb⟩⟩

/-- The two derivations cancel in every word. -/
theorem derivedWord_neg_deriveSecret (S : Bytes) (seed : Word) {w : Nat} (hw : w < 24) :
    derivedWord (bytesOf (deriveSecret S seed)) (0 - seed) w = rd64 S (8 * w) := by
  rw [derivedWord, rd64_deriveSecret S seed hw, derivedWord, zero_sub]
  split
  · exact add_neg_cancel_right _ _
  · rw [sub_neg_eq_add, sub_add_cancel]

/-- Settles O46: word by word, what the first derivation adds or subtracts the second takes back. -/
theorem deriveIsUndoneByTheNegatedSeed : Obligations.DeriveIsUndoneByTheNegatedSeed := fun v seed =>
  deriveSecret_eq_of_words fun _ => derivedWord_neg_deriveSecret (bytesOf v) seed

/-! ### The two readings of `SHORT_PATH_SECRET` -/

/-- The case `seed == 0` of R120: the secret is unchanged. -/
theorem deriveSecret_zero (v : Vector Byte 192) : deriveSecret (bytesOf v) 0 = v :=
  deriveSecret_eq_of_words fun w _ => by
    rw [derivedWord]
    split
    · exact BitVec.add_zero _
    · exact BitVec.sub_zero _

theorem effectiveSecret_zero : effectiveSecret 0 = ksecBytes := by
  rw [effectiveSecret, ksecBytes_eq_bytesOf, deriveSecret_zero]

/-- At seed 0 the parameter has no effect (R122 (a)). -/
theorem shortSecret_zero (p : ShortPathSecret) : shortSecret p 0 = ksecBytes := by
  cases p with
  | base => rfl
  | derived => exact effectiveSecret_zero

variable {n : Word}

/-- LONG reads the effective secret under either reading (R121). -/
theorem hash64_of_long (p : ShortPathSecret) (inp : Bytes) (seed : Word) (h : 240 < n.toNat) :
    hash64 p inp n seed = hashLong inp n (effectiveSecret seed) 192 := by
  rw [hash64, selectHash, lengthClass_long h]

theorem hash64_of_len1_3 (p : ShortPathSecret) (inp : Bytes) (seed : Word) (h1 : 1 ≤ n.toNat) (h3 : n.toNat ≤ 3) :
    hash64 p inp n seed = hashLen1_3 inp n (shortSecret p seed) seed := by
  rw [hash64, selectHash, lengthClass_len1_3 h1 h3]

/-- The bitflip of LEN1_3 (R132), through which alone secret and seed reach its hash. -/
def bitflipLen1_3 (S : Bytes) (seed : Word) : Word := (rd32 S 0 ^^^ rd32 S 4).setWidth 64 + seed

theorem hashLen1_3_eq_bitflip (inp : Bytes) (n : Word) (S : Bytes) (seed : Word) :
    hashLen1_3 inp n S seed = avalanche64 ((combinedLen1_3 inp n).setWidth 64 ^^^ bitflipLen1_3 S seed) := rfl

theorem bitflipLen1_3_eq_halves (S : Bytes) (seed : Word) :
    bitflipLen1_3 S seed = (lowHalf (rd64 S 0) ^^^ highHalf (rd64 S 0)).setWidth 64 + seed := by
  rw [lowHalf_rd64, highHalf_rd64, bitflipLen1_3]

theorem rd64_ksecBytes_zero : rd64 ksecBytes 0 = 0xBE4BA423396CFEB8 := by decide

/-- The first word of `KSEC` is even, so deriving with seed 1 changes only bit 0 of its low half; the bitflip loses 1 by
that, which its seed term adds again (R122 (b)). -/
theorem bitflipLen1_3_derived_one : bitflipLen1_3 (effectiveSecret 1) 1 = bitflipLen1_3 ksecBytes 0 := by
  have hfirst : rd64 (effectiveSecret 1) 0 = rd64 ksecBytes 0 + 1 :=
    rd64_deriveSecret_first ksecBytes 1 (b := 0) (by decide)
  rw [bitflipLen1_3_eq_halves, bitflipLen1_3_eq_halves, hfirst, rd64_ksecBytes_zero]
  decide

/-- Settles O45: the readings differ only in the secret of the short strategies, which is `KSEC` at seed 0 and which
LONG does not read; and the collision is that of the bitflip. -/
theorem shortPathReadingsCompared : Obligations.ShortPathReadingsCompared := by
  refine ⟨fun inp n seed h => ?_, fun inp n h1 h3 => ?_⟩
  · rcases h with rfl | hlong
    · rw [hash64, hash64, shortSecret_zero, shortSecret_zero]
    · rw [hash64_of_long .base inp seed hlong, hash64_of_long .derived inp seed hlong]
  · rw [hash64_of_len1_3 _ _ _ h1 h3, hash64_of_len1_3 _ _ _ h1 h3, hashLen1_3_eq_bitflip, hashLen1_3_eq_bitflip,
      shortSecret_zero, shortSecret, bitflipLen1_3_derived_one]

end Sys2Proof.Machine

/-! PROOFS. The statements of 42_dispatch_short.md: where DISPATCH sends a length, and the values of the four short
strategies. -/

namespace Sys2Proof.Machine

/-! ### DISPATCH (R130) -/

/-- The class code of a length, in the numbers of R130. -/
theorem lengthClass_code (n : Word) :
    (lengthClass n).code =
      if n.toNat = 0 then 0 else if n.toNat ≤ 3 then 1 else if n.toNat ≤ 8 then 2 else if n.toNat ≤ 16 then 3
      else if n.toNat ≤ 128 then 4 else if n.toNat ≤ 240 then 5 else 6 := by
  simp only [lengthClass_eq, apply_ite LenClass.code, Nat.le_zero]
  rfl

/-- The phase of a length: four classes share P_SHORT and two share P_MID. -/
theorem routePhase_lengthClass (n : Word) :
    routePhase (lengthClass n) = if n.toNat ≤ 16 then .short else if n.toNat ≤ 240 then .mid else .longBlock := by
  cases hl : lengthClass n with
  | len0 | len1_3 | len4_8 | len9_16 =>
    have hhi := (lengthClass_bounds hl).2
    rw [if_pos (Nat.le_trans hhi (by decide)), routePhase]
  | len17_128 | len129_240 =>
    obtain ⟨hlo, hhi⟩ := lengthClass_bounds hl
    simp only [LenClass.lenMin, LenClass.lenMax] at hlo hhi
    rw [if_neg (by omega), if_pos (by omega), routePhase]
  | long =>
    have hlo := (lengthClass_bounds hl).1
    simp only [LenClass.lenMin] at hlo
    rw [if_neg (by omega), if_neg (by omega), routePhase]

/-- Settles O30: the code and the phase of the class of the length. -/
theorem dispatchRoutesByLength : Obligations.DispatchRoutesByLength := fun s n => by
  rw [exec, execDispatch, lengthClass_code, routePhase_lengthClass]

/-! ### What the short strategies pack (R132, R133) -/

theorem append_eq_shiftLeft_or {m k : Nat} (hi : BitVec m) (lo : BitVec k) :
    hi ++ lo = (hi.setWidth (m + k) <<< k) ||| lo.setWidth (m + k) := by
  rw [BitVec.append_def, BitVec.shiftLeftZeroExtend_eq, BitVec.setWidth'_eq]

/-- Four bytes shifted to their places and joined by OR, bit by bit: each bit is of one byte. -/
theorem or_shifted_bytes_eq_append (b0 b1 b2 b3 : Byte) :
    (b2.setWidth 32 <<< 16) ||| (b3.setWidth 32 <<< 24) ||| b0.setWidth 32 ||| (b1.setWidth 32 <<< 8) =
      b3 ++ b2 ++ b1 ++ b0 := by
  ext i hi
  grind

/-- The packing of LEN1_3 as bytes: a length of the class has only its lowest byte. -/
theorem combinedLen1_3_eq_append (inp : Bytes) {n : Word} (h3 : n.toNat ≤ 3) :
    combinedLen1_3 inp n = inp (n.toNat / 2) ++ inp 0 ++ n.extractLsb' 0 8 ++ inp (n.toNat - 1) := by
  have hhalf : (n >>> 1).toNat = n.toNat / 2 := BitVec.toNat_ushiftRight n 1
  have hlow : lowHalf n = (n.extractLsb' 0 8).setWidth 32 :=
    BitVec.eq_of_toNat_eq (by rw [lowHalf_toNat, BitVec.toNat_setWidth, BitVec.extractLsb'_toNat]; omega)
  rw [combinedLen1_3, hhalf, hlow, or_shifted_bytes_eq_append]

/-- The keyed value of LEN4_8 with its two halves, and those of its second seed, side by side. -/
theorem keyedLen4_8_eq_append (inp : Bytes) (n : Word) (S : Bytes) (seed : Word) :
    keyedLen4_8 inp n S seed =
      (rd32 inp 0 ++ rd32 inp (n.toNat - 4)) ^^^
        ((rd64 S 8 ^^^ rd64 S 16) - (seed ^^^ (swap32 (lowHalf seed) ++ 0#32))) := by
  rw [append_eq_shiftLeft_or, append_eq_shiftLeft_or, BitVec.setWidth_zero, BitVec.or_zero, BitVec.or_comm]
  rfl

/-! ### The short strategies over written bytes (R131 to R134) -/

section
variable {s : State} {c : LenClass} {n : Word} {S : SecretOperand}

/-- The reads of a strategy whose operands can be read change nothing. -/
theorem strategyReads_of_readable (hc : c.has n = true) (hr : s.Readable n.toNat S) :
    strategyReads c n S s = .next s :=
  strategyReads_of_known hc hr.within hr.input_known hr.secret_wf
    (secretKnown_sub hr.secret_known (by simpa using (SecretOperand.size_of_wf hr.secret_wf).1))

theorem exec_len0_of_readable (seed : Word) (hr : s.Readable 0 S) :
    exec (.len0 S seed) s = .next (setOut (hashLen0 (s.secretBytes S) seed) s) := by
  rw [exec, execLen0, strategyReads_of_readable (n := 0) (by decide) hr, andThen_next]

theorem exec_len1_3_of_readable (seed : Word) (h1 : 1 ≤ n.toNat) (h3 : n.toNat ≤ 3) (hr : s.Readable n.toNat S) :
    exec (.len1_3 n S seed) s = .next (setOut (hashLen1_3 s.inputBytes n (s.secretBytes S) seed) s) := by
  rw [exec, execLen1_3, strategyReads_of_readable (c := .len1_3) (decide_eq_true ⟨h1, h3⟩) hr, andThen_next]

theorem exec_len4_8_of_readable (seed : Word) (h4 : 4 ≤ n.toNat) (h8 : n.toNat ≤ 8) (hr : s.Readable n.toNat S) :
    exec (.len4_8 n S seed) s = .next (setOut (hashLen4_8 s.inputBytes n (s.secretBytes S) seed) s) := by
  rw [exec, execLen4_8, strategyReads_of_readable (c := .len4_8) (decide_eq_true ⟨h4, h8⟩) hr, andThen_next]

theorem exec_len9_16_of_readable (seed : Word) (h9 : 9 ≤ n.toNat) (h16 : n.toNat ≤ 16) (hr : s.Readable n.toNat S) :
    exec (.len9_16 n S seed) s = .next (setOut (hashLen9_16 s.inputBytes n (s.secretBytes S) seed) s) := by
  rw [exec, execLen9_16, strategyReads_of_readable (c := .len9_16) (decide_eq_true ⟨h9, h16⟩) hr, andThen_next]

end

/-- Settles O21: the reads change nothing, and the packed values are those of the rules. -/
theorem shortStrategiesReturnTheirHash : Obligations.ShortStrategiesReturnTheirHash := by
  refine ⟨fun s S seed hr => ?_, fun s n S seed h1 h3 hr => ?_, fun s n S seed h4 h8 hr => ?_,
    fun s n S seed h9 h16 hr => ⟨_, _, rfl, rfl, ?_⟩⟩
  · rw [exec_len0_of_readable seed hr, hashLen0, keyedLen0, setOut]
  · rw [exec_len1_3_of_readable seed h1 h3 hr, hashLen1_3, keyedLen1_3, combinedLen1_3_eq_append _ h3, setOut]
  · rw [exec_len4_8_of_readable seed h4 h8 hr, hashLen4_8, keyedLen4_8_eq_append, setOut]
  · rw [exec_len9_16_of_readable seed h9 h16 hr, hashLen9_16, keyedLen9_16, setOut]

end Sys2Proof.Machine

/-! PROOFS. The statements of 43_dispatch_mid.md: the values of the two strategies for 17 to 240 bytes, their rounds as
sums. -/

namespace Sys2Proof.Machine

/-! ### The rounds as sums (R150, R151) -/

/-- Rounds that each add a value of their own to `HACC`, in their order, add the sum of these values. -/
theorem foldl_range_add_eq_sum (f : Nat → Word) (h : Word) (k : Nat) :
    (List.range k).foldl (fun h i => h + f i) h = h + ∑ i ∈ Finset.range k, f i := by
  induction k with
  | zero => exact (add_zero h).symm
  | succ k ih => rw [List.range_succ, List.foldl_concat, ih, Finset.sum_range_succ, add_assoc]

section
variable (inp : Bytes) (n : Word) (S : Bytes) (seed : Word)

theorem sumLen17_128_eq_sum :
    sumLen17_128 inp n S seed =
      n * 0x9E3779B185EBCA87 + ∑ i ∈ Finset.range ((n.toNat + 31) / 32),
        (mix16 inp (16 * i) S (32 * i) seed + mix16 inp (n.toNat - 16 * (i + 1)) S (32 * i + 16) seed) := by
  rw [sumLen17_128, roundsLen17_128, Config.engine_prime64_1, ← foldl_range_add_eq_sum]
  exact List.foldl_ext _ _ _ fun h i _ => add_assoc h _ _

/-- The further rounds start at chunk 8 of the input and at secret offset 3. -/
theorem sumLen129_240_eq_sum :
    sumLen129_240 inp n S seed =
      avalanche (n * 0x9E3779B185EBCA87 + ∑ i ∈ Finset.range 8, mix16 inp (16 * i) S (16 * i) seed) +
        ∑ i ∈ Finset.Ico 8 (n.toNat / 16), mix16 inp (16 * i) S (16 * (i - 8) + 3) seed +
        mix16 inp (n.toNat - 16) S 119 seed := by
  have hfurther : ∑ i ∈ Finset.Ico 8 (n.toNat / 16), mix16 inp (16 * i) S (16 * (i - 8) + 3) seed =
      ∑ j ∈ Finset.range (n.toNat / 16 - 8), mix16 inp (16 * (j + 8)) S (16 * j + 3) seed := by
    rw [Finset.sum_Ico_eq_sum_range]
    exact Finset.sum_congr rfl fun j _ => by rw [Nat.add_comm 8 j, Nat.add_sub_cancel]
  rw [sumLen129_240, foldl_range_add_eq_sum, foldl_range_add_eq_sum, Config.engine_prime64_1, hfurther]
  rfl

end

/-! ### The two strategies over written bytes -/

section
variable {s : State} {n : Word} {S : SecretOperand}

theorem exec_len17_128_of_readable (seed : Word) (h17 : 17 ≤ n.toNat) (h128 : n.toNat ≤ 128)
    (hr : s.Readable n.toNat S) :
    exec (.len17_128 n S seed) s = .next { s with
      hacc := sumLen17_128 s.inputBytes n (s.secretBytes S) seed
      rnd := BitVec.ofNat 4 (roundsLen17_128 n.toNat)
      out := hashLen17_128 s.inputBytes n (s.secretBytes S) seed } := by
  rw [exec, execLen17_128, strategyReads_of_readable (c := .len17_128) (decide_eq_true ⟨h17, h128⟩) hr, andThen_next]
  rfl

theorem exec_len129_240_of_readable (seed : Word) (h129 : 129 ≤ n.toNat) (h240 : n.toNat ≤ 240)
    (hr : s.Readable n.toNat S) :
    exec (.len129_240 n S seed) s = .next { s with
      hacc := sumLen129_240 s.inputBytes n (s.secretBytes S) seed
      rnd := BitVec.ofNat 4 (roundsLen129_240 n.toNat)
      out := hashLen129_240 s.inputBytes n (s.secretBytes S) seed } := by
  rw [exec, execLen129_240, strategyReads_of_readable (c := .len129_240) (decide_eq_true ⟨h129, h240⟩) hr,
    andThen_next]
  rfl

end

/-- Settles O22: the reads change nothing, and the rounds add up in any order. -/
theorem len17To128ReturnsItsHash : Obligations.Len17To128ReturnsItsHash := fun s n S seed h17 h128 hr => by
  refine ⟨_, rfl, ?_⟩
  rw [exec_len17_128_of_readable seed h17 h128 hr, hashLen17_128, sumLen17_128_eq_sum, roundsLen17_128]

/-- Settles O23: as for LEN17_128, with the eight rounds before the mid-way AVALANCHE and the further ones each a sum. -/
theorem len129To240ReturnsItsHash : Obligations.Len129To240ReturnsItsHash := fun s n S seed h129 h240 hr => by
  refine ⟨_, _, rfl, rfl, ?_⟩
  rw [exec_len129_240_of_readable seed h129 h240 hr, hashLen129_240, sumLen129_240_eq_sum, roundsLen129_240]

end Sys2Proof.Machine

/-! PROOFS. The statements of 44_stripe_engine.md: INITACC, the lanes of ACCUMULATE and SCRAMBLE, the stripe schedule,
and STRIPELOOP, MERGE and LONG over written bytes. -/

namespace Sys2Proof.Machine

/-! ### INITACC (R170) -/

/-- Settles O32: `initAcc` names the constants of R170. -/
theorem initaccSetsTheVector : Obligations.InitaccSetsTheVector := fun _ => rfl

/-! ### ACCUMULATE (R171) -/

theorem neighbour_eq_xor {j : Nat} (hj : j < 8) : neighbour j = j ^^^ 1 := by
  interval_cases j <;> rfl

theorem neighbour_lt {j : Nat} (hj : j < 8) : neighbour j < 8 := by
  unfold neighbour
  split_ifs <;> omega

/-- Two lanes are each other's neighbours. -/
theorem neighbour_eq_iff {i j : Nat} : neighbour i = j ↔ i = neighbour j := by
  unfold neighbour
  split_ifs <;> omega

section
variable (inp : Bytes) (io : Nat) (S : Bytes) (so : Nat) (acc : Vector Word 8)

/-- The keyed product of a lane (R171). -/
def laneProduct (i : Nat) : Word := mul32 (rd64 inp (io + 8 * i) ^^^ rd64 S (so + 8 * i))

theorem accumulate_getElem {j : Nat} (hj : j < 8) :
    (accumulate inp io S so acc)[j] = acc[j] + rd64 inp (io + 8 * neighbour j) + laneProduct inp io S so j :=
  Vector.getElem_ofFn hj

/-- One iteration of the loop of R171: the data word of lane `i` to its neighbour, its keyed product to lane `i`. -/
def accumulateLane (i : Nat) : Vector Word 8 :=
  let b := acc.set! (neighbour i) (acc.getD (neighbour i) 0 + rd64 inp (io + 8 * i))
  b.set! i (b.getD i 0 + laneProduct inp io S so i)

theorem accumulateLoop_eq_foldl :
    accumulateLoop inp io S so acc = (List.range 8).foldl (accumulateLane inp io S so) acc := rfl

/-- What iteration `i` of the loop adds to lane `j`. -/
def laneGain (j i : Nat) : Word :=
  (if i = neighbour j then rd64 inp (io + 8 * i) else 0) + if i = j then laneProduct inp io S so i else 0

theorem getD_eq_getElem {i : Nat} (hi : i < 8) : acc.getD i 0 = acc[i] := by simp [Vector.getD, hi]

theorem getElem_set!_getD_add (i : Nat) (w : Word) {j : Nat} (hj : j < 8) :
    (acc.set! i (acc.getD i 0 + w))[j] = acc[j] + if i = j then w else 0 := by
  rw [Vector.getElem_set!]
  split_ifs with h
  · subst h
    rw [getD_eq_getElem acc hj]
  · exact (add_zero _).symm

theorem accumulateLane_getElem (i : Nat) {j : Nat} (hj : j < 8) :
    (accumulateLane inp io S so acc i)[j] = acc[j] + laneGain inp io S so j i := by
  rw [accumulateLane, getElem_set!_getD_add _ _ _ hj, getElem_set!_getD_add _ _ _ hj, laneGain, add_assoc,
    if_congr neighbour_eq_iff rfl rfl]

/-- Over the eight iterations a lane gains its neighbour's data word once and its own keyed product once. -/
theorem sum_laneGain {j : Nat} (hj : j < 8) :
    ∑ i ∈ Finset.range 8, laneGain inp io S so j i =
      rd64 inp (io + 8 * neighbour j) + laneProduct inp io S so j := by
  simp only [laneGain, Finset.sum_add_distrib, Finset.sum_ite_eq', Finset.mem_range, if_pos (neighbour_lt hj),
    if_pos hj]

/-- The loop of R171 gives every lane what the lanes gain at once. -/
theorem accumulate_eq_loop : accumulate inp io S so acc = accumulateLoop inp io S so acc := by
  apply Vector.ext
  intro j hj
  have hlane := List.foldl_hom (fun a : Vector Word 8 => a[j]) (l := List.range 8) (init := acc)
    (g₂ := fun w i => w + laneGain inp io S so j i) fun a i => (accumulateLane_getElem inp io S so a i hj).symm
  rw [accumulateLoop_eq_foldl, ← hlane, foldl_range_add_eq_sum, sum_laneGain _ _ _ _ hj,
    accumulate_getElem _ _ _ _ _ hj, add_assoc]

end

theorem mul32_eq_ofNat (x : Word) : mul32 x = BitVec.ofNat 64 ((x.toNat % 2 ^ 32) * (x.toNat / 2 ^ 32)) := by
  rw [← mul32_toNat, BitVec.ofNat_toNat, BitVec.setWidth_eq]

section
variable {s : State} {io : Word} {S : SecretOperand} {so : Nat}

theorem exec_accumulate_of_known (hio : io.toNat + 64 ≤ s.latch.len.toNat) (hS : S.wf = true)
    (hso : so + 64 ≤ S.size) (hin : Mem.known s.input io.toNat 64 = true) (hsec : s.secretKnown S so 64 = true) :
    exec (.accumulate io S so) s =
      .next (setAcc (accumulate s.inputBytes io.toNat (s.secretBytes S) so s.acc) s) := by
  rw [exec, execAccumulate_within hio hS hso, hin, hsec, Bool.not_true, Bool.or_self, mark_false]

end

/-- Settles O33: the reads change nothing, and a lane gains the same at once as in the loop. -/
theorem accumulateAddsEveryLane : Obligations.AccumulateAddsEveryLane := by
  intro s io S so hio hS hso hin hsec
  refine ⟨_, exec_accumulate_of_known hio hS hso hin hsec, fun j => ⟨_, _, _, rfl, rfl, rfl, ?_⟩,
    accumulate_eq_loop ..⟩
  rw [← mul32_eq_ofNat, ← neighbour_eq_xor j.isLt]
  exact accumulate_getElem _ _ _ _ _ j.isLt

/-! ### SCRAMBLE (R172) -/

/-- A right shift that moves a word strictly down leaves only 0 as it is. -/
theorem eq_zero_of_eq_ushiftRight {x : Word} {k : Nat} (hk : 0 < k) (h : x = x >>> k) : x = 0 := by
  have hdiv : x.toNat = x.toNat / 2 ^ k := by
    rw [← Nat.shiftRight_eq_div_pow, ← BitVec.toNat_ushiftRight, ← h]
  refine BitVec.eq_of_toNat_eq (not_ne_iff.1 fun hne => ?_)
  exact (Nat.div_lt_self (Nat.pos_of_ne_zero hne) (Nat.one_lt_two_pow hk.ne')).ne hdiv.symm

/-- The xor with a right shift of itself determines a word: the difference of two words it does not tell apart is its
own right shift. -/
theorem xorshift_injective {k : Nat} (hk : 0 < k) : Function.Injective (xorshift · k) := by
  intro x y h
  simp only [xorshift] at h
  have hdiff : x ^^^ y = (x ^^^ y) >>> k := by
    rw [BitVec.ushiftRight_xor_distrib, ← BitVec.xor_eq_zero_iff, ← BitVec.xor_eq_zero_iff.2 h]
    ac_rfl
  exact BitVec.xor_eq_zero_iff.1 (eq_zero_of_eq_ushiftRight hk hdiff)

/-- PRIME32_1 is odd. -/
theorem isUnit_prime32_1 : IsUnit 0x9E3779B1#64 := .of_mul_eq_one 0xCFA4A56B0E8B2F51 (by decide)

theorem scramble_getElem (S : Bytes) (Z : Nat) (acc : Vector Word 8) {j : Nat} (hj : j < 8) :
    (scramble S Z acc)[j] = (xorshift acc[j] 47 ^^^ rd64 S (Z - 64 + 8 * j)) * 0x9E3779B1#64 :=
  Vector.getElem_ofFn hj

theorem scramble_injective (S : Bytes) (Z : Nat) : Function.Injective (scramble S Z) := by
  intro a b h
  apply Vector.ext
  intro j hj
  have hlane : (scramble S Z a)[j] = (scramble S Z b)[j] := by rw [h]
  rw [scramble_getElem S Z a hj, scramble_getElem S Z b hj, isUnit_prime32_1.mul_left_inj, BitVec.xor_left_inj] at hlane
  exact xorshift_injective (by decide) hlane

theorem exec_scramble_of_known {s : State} {S : SecretOperand} (hS : S.wf = true)
    (hsec : s.secretKnown S (S.size - 64) 64 = true) :
    exec (.scramble S) s = .next (setAcc (scramble (s.secretBytes S) S.size s.acc) s) := by
  rw [exec, execScramble_within hS, hsec, Bool.not_true, mark_false]

/-- Settles O34: each lane is xorshifted, xored with its key word and multiplied by an odd number. -/
theorem scrambleMixesEveryLane : Obligations.ScrambleMixesEveryLane :=
  ⟨fun _ _ hS hsec => ⟨_, exec_scramble_of_known hS hsec, fun j => scramble_getElem _ _ _ j.isLt⟩,
    fun S Z _ _ h => scramble_injective S Z h⟩

/-! ### The stripe schedule (R173) -/

/-- The ACCUMULATEs of `k` stripes from input offset `io` on. -/
def stripeOps (io k : Nat) : List StripeOp := (List.range k).map fun s => .accumulate (io + 64 * s) (8 * s)

/-- The operations of full block `b`. -/
def blockOps (Z b : Nat) : List StripeOp := stripeOps (b * blockLen Z) (stripesPerBlock Z) ++ [.scramble]

theorem stripeSchedule_eq (n Z : Nat) :
    stripeSchedule n Z = (List.range (fullBlocks n Z)).flatMap (blockOps Z) ++
      stripeOps (fullBlocks n Z * blockLen Z) (tailStripes n Z) ++ [.accumulate (n - 64) (Z - 64 - 7)] := rfl

theorem length_stripeOps (io k : Nat) : (stripeOps io k).length = k := by simp [stripeOps]

theorem length_blockOps (Z b : Nat) : (blockOps Z b).length = stripesPerBlock Z + 1 := by
  rw [blockOps, List.length_append, length_stripeOps, List.length_singleton]

theorem length_stripeSchedule (n Z : Nat) :
    (stripeSchedule n Z).length = fullBlocks n Z * (stripesPerBlock Z + 1) + tailStripes n Z + 1 := by
  simp [stripeSchedule_eq, length_blockOps, length_stripeOps, Nat.add_assoc]

theorem count_scramble_stripeOps (io k : Nat) : (stripeOps io k).count .scramble = 0 := by
  simp [stripeOps, List.count_eq_zero]

theorem count_scramble_blockOps (Z b : Nat) : (blockOps Z b).count .scramble = 1 := by
  rw [blockOps, List.count_append, count_scramble_stripeOps, List.count_singleton_self]

theorem count_scramble_stripeSchedule (n Z : Nat) : (stripeSchedule n Z).count .scramble = fullBlocks n Z := by
  simp [stripeSchedule_eq, List.count_flatMap, Function.comp_def, count_scramble_blockOps, count_scramble_stripeOps]

theorem mem_stripeOps {io k i o : Nat} :
    StripeOp.accumulate i o ∈ stripeOps io k ↔ ∃ s < k, i = io + 64 * s ∧ o = 8 * s := by
  simp [stripeOps, eq_comm]

/-- An ACCUMULATE of the schedule is of a full block, of the last, partial block, or the last stripe. -/
theorem mem_stripeSchedule {n Z i o : Nat} :
    StripeOp.accumulate i o ∈ stripeSchedule n Z ↔
      (∃ b < fullBlocks n Z, ∃ s < stripesPerBlock Z, i = b * blockLen Z + 64 * s ∧ o = 8 * s) ∨
      (∃ s < tailStripes n Z, i = fullBlocks n Z * blockLen Z + 64 * s ∧ o = 8 * s) ∨
      (i = n - 64 ∧ o = Z - 64 - 7) := by
  simp [stripeSchedule_eq, blockOps, mem_stripeOps]

/-- The stripes before the last stripe are the full stripes of the first `n - 1` bytes. -/
theorem scheduledStripes_eq (n Z : Nat) :
    fullBlocks n Z * stripesPerBlock Z + tailStripes n Z = (n - 1) / 64 := by
  have hle := fullBlocks_mul_le n Z
  rw [blockLen_eq, Nat.mul_left_comm] at hle
  rw [tailStripes_eq, blockLen_eq, Nat.mul_assoc, Nat.mul_comm (stripesPerBlock Z)]
  omega

theorem fullBlocks_of_192 (n : Nat) : fullBlocks n 192 = (n - 1) / 1024 := rfl

/-- Each stripe and its key lie within input and secret (20_memory.md R55, R65). -/
theorem stripeSchedule_within {n Z i o : Nat} (hn : 64 ≤ n) (h1 : 136 ≤ Z) (h2 : Z ≤ 192)
    (h : StripeOp.accumulate i o ∈ stripeSchedule n Z) : i + 64 ≤ n ∧ o + 64 ≤ Z := by
  have hspb := (stripesPerBlock_bounds h1 h2).2.2
  obtain ⟨b, hb, k, hk, rfl, rfl⟩ | ⟨k, hk, rfl, rfl⟩ | ⟨rfl, rfl⟩ := mem_stripeSchedule.1 h
  · exact ⟨blockStripe_within hb hk, by omega⟩
  · have htail := tailStripes_le n Z
    have hlt := tailStripes_lt (n := n) h1 h2
    exact ⟨by omega, by omega⟩
  · exact ⟨by omega, by omega⟩

/-- Every full stripe of the first `n - 1` bytes is scheduled: `q / nspb` is its block. -/
theorem exists_mem_stripeSchedule {n Z q : Nat} (h1 : 136 ≤ Z) (h2 : Z ≤ 192) (hq : q < (n - 1) / 64) :
    ∃ o, StripeOp.accumulate (64 * q) o ∈ stripeSchedule n Z := by
  have hpos : 0 < stripesPerBlock Z := Nat.lt_of_lt_of_le (by decide) (stripesPerBlock_bounds h1 h2).1
  have hoffset (b : Nat) : b * blockLen Z = 64 * (b * stripesPerBlock Z) := by rw [blockLen_eq, Nat.mul_left_comm]
  rw [← scheduledStripes_eq n Z] at hq
  obtain hblock | htail := Nat.lt_or_ge q (fullBlocks n Z * stripesPerBlock Z)
  · have hdiv := Nat.div_add_mod' q (stripesPerBlock Z)
    exact ⟨_, mem_stripeSchedule.2 (.inl ⟨q / stripesPerBlock Z, (Nat.div_lt_iff_lt_mul hpos).2 hblock,
      q % stripesPerBlock Z, Nat.mod_lt q hpos, by rw [hoffset]; omega, rfl⟩)⟩
  · exact ⟨_, mem_stripeSchedule.2 (.inr (.inl ⟨q - fullBlocks n Z * stripesPerBlock Z, by omega,
      by rw [hoffset]; omega, rfl⟩))⟩

theorem stripeSchedule_cover {n Z a : Nat} (hn : 64 ≤ n) (h1 : 136 ≤ Z) (h2 : Z ≤ 192) (ha : a < n) :
    ∃ i o, StripeOp.accumulate i o ∈ stripeSchedule n Z ∧ i ≤ a ∧ a < i + 64 := by
  obtain hstripe | hlast := Nat.lt_or_ge (a / 64) ((n - 1) / 64)
  · obtain ⟨o, ho⟩ := exists_mem_stripeSchedule h1 h2 hstripe
    exact ⟨_, o, ho, by omega, by omega⟩
  · exact ⟨_, _, mem_stripeSchedule.2 (.inr (.inr ⟨rfl, rfl⟩)), by omega, by omega⟩

/-- Settles O26: the counts from the lists, the bounds and the coverage from where an ACCUMULATE stands. -/
theorem scheduleCountsAndBounds : Obligations.ScheduleCountsAndBounds := by
  intro n Z hn h1 h2
  have h64 : 64 ≤ n := by omega
  refine ⟨count_scramble_stripeSchedule n Z, length_stripeSchedule n Z, tailStripes_lt h1 h2, scheduledStripes_eq n Z,
    ?_, fun _ _ => stripeSchedule_within h64 h1 h2, fun _ => stripeSchedule_cover h64 h1 h2⟩
  rintro rfl
  exact fullBlocks_of_192 n

/-! ### STRIPELOOP (R173) -/

section
variable (inp S : Bytes) (Z : Nat) (acc : Vector Word 8)

theorem foldl_stripeOps (io k : Nat) :
    (stripeOps io k).foldl (StripeOp.apply inp S Z) acc = stripes inp io S k acc := by
  rw [stripeOps, List.foldl_map]
  rfl

theorem foldl_blockOps (b : Nat) :
    (blockOps Z b).foldl (StripeOp.apply inp S Z) acc =
      scramble S Z (stripes inp (b * blockLen Z) S (stripesPerBlock Z) acc) := by
  rw [blockOps, List.foldl_concat, foldl_stripeOps, StripeOp.apply]

/-- The nested loops of STRIPELOOP run the operations of the schedule in its order. -/
theorem foldl_stripeSchedule (n : Nat) :
    (stripeSchedule n Z).foldl (StripeOp.apply inp S Z) acc = stripeLoop inp n S Z acc := by
  rw [stripeSchedule_eq, List.foldl_concat, List.foldl_append, List.foldl_flatMap, foldl_stripeOps]
  simp only [foldl_blockOps]
  rfl

end

section
variable {s : State} {n : Word} {S : SecretOperand}

/-- Every byte that STRIPELOOP reads of a readable secret holds a value. -/
theorem State.Readable.stripeSecretReads_known (hr : s.Readable n.toNat S) :
    ((stripeSecretReads n.toNat S.size).all fun r => s.secretKnown S r.1 r.2) = true := by
  obtain ⟨hz1, hz2⟩ := SecretOperand.size_of_wf hr.secret_wf
  exact List.all_eq_true.2 fun r hmem => secretKnown_sub hr.secret_known (stripeSecretReads_within hz1 hz2 r hmem)

/-- Every byte that a class reads of a readable input holds a value. -/
theorem State.Readable.inputReads_known (hr : s.Readable n.toNat S) :
    ((inputReads n.toNat (lengthClass n)).all fun r => Mem.known s.input r.1 r.2) = true :=
  List.all_eq_true.2 fun r hmem => Mem.known_sub hr.input_known (Nat.zero_le _)
    (by simpa using inputReads_within (lengthClass_bounds rfl) r hmem)

theorem exec_stripeloop_of_readable (hn : 241 ≤ n.toNat) (hr : s.Readable n.toNat S) :
    exec (.stripeloop n S) s =
      .next (setAcc (stripeLoop s.inputBytes n.toNat (s.secretBytes S) S.size s.acc)
        (setBlock (BitVec.ofNat 64 (fullBlocks n.toNat S.size)) (BitVec.ofNat 5 (tailStripes n.toNat S.size)) s)) := by
  have hl := lengthClass_long hn
  have hin := hr.inputReads_known
  rw [hl] at hin
  rw [exec, execStripeloop_within hl hr.within hr.secret_wf, hin, hr.stripeSecretReads_known, Bool.not_true,
    Bool.or_false, mark_false]

end

/-- Settles O25: the reads change nothing, and the loops run the schedule. -/
theorem stripeloopRunsTheSchedule : Obligations.StripeloopRunsTheSchedule := fun s n S hn hr => by
  rw [exec_stripeloop_of_readable hn hr, foldl_stripeSchedule, setAcc, setBlock]

/-! ### MERGE (R174) -/

/-- The folds of MERGE as a sum over the four pairs of lanes. -/
theorem mergeSum_eq_sum (n : Word) (S : Bytes) (acc : Vector Word 8) :
    mergeSum n S acc = n * 0x9E3779B185EBCA87 + ∑ p : Fin 4,
      fold64 (acc[2 * p.val] ^^^ rd64 S (11 + 16 * p.val)) (acc[2 * p.val + 1] ^^^ rd64 S (19 + 16 * p.val)) := by
  rw [mergeSum, foldl_range_add_eq_sum, Finset.sum_range, Config.engine_prime64_1]
  congr 1
  exact Finset.sum_congr rfl fun p _ => by rw [getD_eq_getElem, getD_eq_getElem]

section
variable {s : State} {n : Word} {S : SecretOperand}

theorem exec_merge_of_known (hS : S.wf = true) (hsec : s.secretKnown S 11 64 = true) :
    exec (.merge n S) s =
      .next (setOut (mergeAcc n (s.secretBytes S) s.acc) (setHacc (mergeSum n (s.secretBytes S) s.acc) s)) := by
  rw [exec, execMerge_within hS, hsec, Bool.not_true, mark_false]

end

/-- Settles O27: the read changes nothing, and the folds add up. -/
theorem mergeFoldsTheFourPairs : Obligations.MergeFoldsTheFourPairs := fun s n S hS hsec => by
  refine ⟨_, rfl, ?_⟩
  rw [exec_merge_of_known hS hsec, mergeAcc, mergeSum_eq_sum, setOut, setHacc]

/-! ### LONG (R175) -/

section
variable {s : State} {n : Word} {S : SecretOperand}

@[simp] theorem secretBytes_setBlock (b : Word) (k : BitVec 5) (s : State) (S : SecretOperand) :
    (setBlock b k s).secretBytes S = s.secretBytes S := by cases S <;> rfl

@[simp] theorem secretKnown_setBlock (b : Word) (k : BitVec 5) (s : State) (S : SecretOperand) (i j : Nat) :
    (setBlock b k s).secretKnown S i j = s.secretKnown S i j := by cases S <;> rfl

/-- What can be read does not depend on the accumulators. -/
theorem State.Readable.setAcc {m : Nat} (hr : s.Readable m S) (a : Vector Word 8) :
    (Machine.setAcc a s).Readable m S :=
  { hr with secret_known := by rw [setAcc_secretKnown]; exact hr.secret_known }

/-- Operations that complete in turn complete as LONG. -/
theorem exec_long_of_parts {a b : State} (ha : exec .initacc s = .next a) (hb : exec (.stripeloop n S) a = .next b) :
    exec (.long n S) s = exec (.merge n S) b := by
  simp only [exec] at ha hb ⊢
  rw [execLong, ha, andThen_next, hb, andThen_next]

end

/-- Settles O24: INITACC and STRIPELOOP leave the secret as MERGE reads it, and the three compute the long hash. -/
theorem longRunsItsThreeParts : Obligations.LongRunsItsThreeParts := by
  intro s n S hn hr
  have hz := (SecretOperand.size_of_wf hr.secret_wf).1
  have hinit : exec .initacc s = .next (setAcc initAcc s) := rfl
  have hloop := exec_stripeloop_of_readable hn (hr.setAcc initAcc)
  have hknown : s.secretKnown S 11 64 = true := secretKnown_sub hr.secret_known (by omega)
  have hmerge (a a' : Vector Word 8) (b : Word) (k : BitVec 5) :=
    exec_merge_of_known (n := n) (s := setAcc a (setBlock b k (setAcc a' s))) hr.secret_wf (by simpa using hknown)
  refine ⟨_, _, _, hinit, hloop, hmerge _ _ _ _, (exec_long_of_parts hinit hloop).trans (hmerge _ _ _ _), rfl, ?_⟩
  simp [hashLong]

end Sys2Proof.Machine

/-! PROOFS. The statements of 45_finishers.md: the values of the three finishers, and that each is injective, as the
composition of injective steps. -/

namespace Sys2Proof.Machine

/-! ### The multiplications (R101): each constant is odd -/

theorem isUnit_primeMx1 : IsUnit Config.engine.primeMx1 := .of_mul_eq_one 0x08DA8EE41D6DF849 (by decide)
theorem isUnit_primeMx2 : IsUnit Config.engine.primeMx2 := .of_mul_eq_one 0x02AB9C720D1024AD (by decide)
theorem isUnit_prime64_2 : IsUnit Config.engine.prime64_2 := .of_mul_eq_one 0x0BA79078168D4BAF (by decide)
theorem isUnit_prime64_3 : IsUnit Config.engine.prime64_3 := .of_mul_eq_one 0xE9E9F4C41D6DF849 (by decide)

/-! ### AVALANCHE and AVALANCHE64 -/

theorem avalanche_injective : Function.Injective avalanche :=
  (xorshift_injective (k := 32) (by decide)).comp
    (isUnit_primeMx1.mul_left_injective.comp (xorshift_injective (k := 37) (by decide)))

theorem avalanche64_injective : Function.Injective avalanche64 :=
  (xorshift_injective (k := 32) (by decide)).comp
    (isUnit_prime64_3.mul_left_injective.comp
      ((xorshift_injective (k := 29) (by decide)).comp
        (isUnit_prime64_2.mul_left_injective.comp (xorshift_injective (k := 33) (by decide)))))

/-- Settles O36: every step is an xorshift or a multiplication by an odd constant. -/
theorem avalanchesAreInjective : Obligations.AvalanchesAreInjective :=
  ⟨fun _ _ h => avalanche_injective h, fun _ _ h => avalanche64_injective h⟩

/-! ### The rotations of RRMXMX (R105) -/

/-- The model's rotation is the library's. -/
theorem rotl64_eq_rotateLeft (x : Word) {r : Nat} (hr : r < 64) : rotl64 x r = x.rotateLeft r := by
  rw [BitVec.rotateLeft_def, Nat.mod_eq_of_lt hr, rotl64]

/-- Two rotations in turn are one by the sum of the amounts. -/
theorem rotateLeft_rotateLeft {w : Nat} (x : BitVec w) (a b : Nat) :
    (x.rotateLeft a).rotateLeft b = x.rotateLeft (a + b) := by
  refine BitVec.eq_of_getMsbD_eq fun i hi => ?_
  simp only [BitVec.getMsbD_rotateLeft, hi, Nat.mod_lt _ (Nat.zero_lt_of_lt hi), decide_true, Bool.true_and,
    Nat.add_mod_mod, Nat.add_assoc]

theorem rotateLeft_xor {w : Nat} (x y : BitVec w) (a : Nat) :
    (x ^^^ y).rotateLeft a = x.rotateLeft a ^^^ y.rotateLeft a := by
  refine BitVec.eq_of_getMsbD_eq fun i hi => ?_
  simp only [BitVec.getMsbD_rotateLeft, BitVec.getMsbD_xor, hi, decide_true, Bool.true_and]

/-- A rotation by a multiple of the width changes nothing. -/
theorem rotateLeft_mul_width {w : Nat} (x : BitVec w) (k : Nat) : x.rotateLeft (w * k) = x := by
  rw [← BitVec.rotateLeft_mod_eq_rotateLeft, Nat.mul_mod_right]
  refine BitVec.eq_of_getMsbD_eq fun i hi => ?_
  rw [BitVec.getMsbD_rotateLeft, Nat.zero_add, Nat.mod_eq_of_lt hi, decide_eq_true hi, Bool.true_and]

/-- The xor of a word with two rotations of itself. -/
def xorRotations (a b : Nat) (x : Word) : Word := x ^^^ x.rotateLeft a ^^^ x.rotateLeft b

/-- Over GF(2) the square of `1 + x^a + x^b` is `1 + x^(2a) + x^(2b)`: the mixed terms cancel. -/
theorem xorRotations_xorRotations (a b : Nat) (x : Word) :
    xorRotations a b (xorRotations a b x) = xorRotations (2 * a) (2 * b) x := by
  have hcancel (p q r s t u : Word) :
      p ^^^ q ^^^ r ^^^ (q ^^^ s ^^^ t) ^^^ (r ^^^ t ^^^ u) =
        p ^^^ s ^^^ u ^^^ (q ^^^ q) ^^^ (r ^^^ r) ^^^ (t ^^^ t) := by
    ac_rfl
  simp only [xorRotations, rotateLeft_xor, rotateLeft_rotateLeft, Nat.add_comm b a, ← Nat.two_mul, hcancel,
    BitVec.xor_self, BitVec.xor_zero]

/-- Words that the map does not tell apart stay so under its repeated squares. -/
theorem xorRotations_pow_eq {a b : Nat} {x y : Word} (h : xorRotations a b x = xorRotations a b y) (k : Nat) :
    xorRotations (2 ^ k * a) (2 ^ k * b) x = xorRotations (2 ^ k * a) (2 ^ k * b) y := by
  induction k with
  | zero => rwa [Nat.pow_zero, Nat.one_mul, Nat.one_mul]
  | succ k ih =>
    rw [Nat.pow_succ', Nat.mul_assoc, Nat.mul_assoc, ← xorRotations_xorRotations, ih, xorRotations_xorRotations]

/-- The power 64 of the map is the identity, since its rotations are by multiples of the width. -/
theorem xorRotations_injective (a b : Nat) : Function.Injective (xorRotations a b) := by
  have hid (x : Word) : xorRotations (64 * a) (64 * b) x = x := by
    rw [xorRotations, rotateLeft_mul_width x a, rotateLeft_mul_width x b, BitVec.xor_self, BitVec.zero_xor]
  intro x y h
  simpa only [Nat.reducePow, hid] using xorRotations_pow_eq h 6

/-! ### The step of RRMXMX that takes the length -/

/-- The xor with `(x >> 35) + len` (R202). -/
def xorshiftLen (len x : Word) : Word := x ^^^ ((x >>> 35) + len)

/-- The sum stays below bit 35 (R202), so the bits it is computed from stay as they are. -/
theorem xorshiftLen_ushiftRight {len : Word} (hlen : len.toNat ≤ 8) (x : Word) :
    xorshiftLen len x >>> 35 = x >>> 35 := by
  have hsum : ((x >>> 35) + len) >>> 35 = 0#64 := by bv_omega
  rw [xorshiftLen, BitVec.ushiftRight_xor_distrib, hsum, BitVec.xor_zero]

theorem xorshiftLen_injective {len : Word} (hlen : len.toNat ≤ 8) : Function.Injective (xorshiftLen len) := by
  intro x y h
  have hhigh : x >>> 35 = y >>> 35 := by
    rw [← xorshiftLen_ushiftRight hlen x, h, xorshiftLen_ushiftRight hlen y]
  rwa [xorshiftLen, xorshiftLen, hhigh, BitVec.xor_left_inj] at h

/-! ### RRMXMX -/

theorem rrmxmx_eq (h len : Word) :
    rrmxmx h len =
      xorshift (xorshiftLen len (xorRotations 49 24 h * Config.engine.primeMx2) * Config.engine.primeMx2) 28 := by
  rw [rrmxmx, rotl64_eq_rotateLeft h (by decide), rotl64_eq_rotateLeft h (by decide), xorshiftLen, xorRotations]

theorem rrmxmx_injective {len : Word} (hlen : len.toNat ≤ 8) : Function.Injective (rrmxmx · len) := by
  simp only [rrmxmx_eq]
  exact (xorshift_injective (k := 28) (by decide)).comp
    (isUnit_primeMx2.mul_left_injective.comp
      ((xorshiftLen_injective hlen).comp
        (isUnit_primeMx2.mul_left_injective.comp (xorRotations_injective 49 24))))

/-- Settles O37: a length of the class is too short for the sum with it to reach the bits the sum is computed from. -/
theorem rrmxmxIsInjective : Obligations.RrmxmxIsInjective := fun _ _ _ _ hlen h => rrmxmx_injective hlen h

/-! ### The values of the finishers (R200, R201, R202) -/

/-- Settles O35: the finishers are written as their pseudocode, RRMXMX with the model's own rotation. -/
theorem finishersReturnTheirMix : Obligations.FinishersReturnTheirMix := by
  refine fun s h len =>
    ⟨⟨_, _, rfl, rfl, rfl⟩, ⟨_, _, _, _, rfl, rfl, rfl, rfl, rfl⟩, _, _, _, _, rfl, rfl, rfl, rfl, ?_⟩
  rw [exec, execRrmxmx, rrmxmx_eq]
  rfl

end Sys2Proof.Machine

/-! PROOFS. The statements of 46_commands.md: the four commands by state, the function that the two hash commands
compute, where an accepted command ends, and the rows of Table PHASE. -/

namespace Sys2Proof.Machine

variable {s : State}

/-! ### The four commands by state (R210 to R214) -/

theorem issueHash_of_not_ready (hr : ¬ s.ready) (cmd : HashCommand) : issueHash cmd s = .next s := by
  unfold issueHash
  split
  · next h => exact absurd (.inl h) hr
  · next h => exact absurd (.inr h) hr
  · rfl
  · rfl

/-- Settles O8: acceptance is one update, with the operands latched. -/
theorem hash64Accepted : Obligations.Hash64Accepted := fun _ =>
  ⟨fun hr => issueHash_of_ready hr .hash64, fun hr => issueHash_of_not_ready hr .hash64⟩

/-- Settles O9: the update of HASH64, under the other command. -/
theorem hash64sAccepted : Obligations.Hash64sAccepted := fun _ =>
  ⟨fun hr => issueHash_of_ready hr .hash64s, fun hr => issueHash_of_not_ready hr .hash64s⟩

/-- Settles O6: NOP is decoded and executed without a look at the state. -/
theorem nopDoesNothing : Obligations.NopDoesNothing := ⟨rfl, fun _ => rfl⟩

theorem execClear_of_not_busy (hb : s.status.state ≠ .busy) : execClear s = .next (acknowledge s) := by
  unfold execClear
  split
  · rfl
  · rfl
  · rfl
  · next h => exact absurd h hb

theorem execClear_of_busy (hb : s.status.state = .busy) : execClear s = .next s := by
  simp only [execClear, hb]

theorem Phase.eq_idle_of_state {p : Phase} (h : p.state = .idle) : p = .idle := by
  revert h; cases p <;> decide

/-- In a well-formed IDLE state there is nothing to acknowledge (10_state.md R24, 46_commands.md R216). -/
theorem State.Inv.acknowledge_of_idle (h : s.Inv) (hs : s.status.state = .idle) : acknowledge s = s := by
  have hf : s.status.fcode = fcodeNone := by
    by_contra hne
    exact absurd (hs.symm.trans (h.fcode_fault.1 hne)) (by decide)
  have hl : s.status.lclass = lclassNone := h.lclass_done.2 (by simp [hs])
  have hp : s.phase = .idle := Phase.eq_idle_of_state (h.state_of_phase ▸ hs)
  rw [acknowledge, ← hs, ← hf, ← hl, ← hp]

/-- After CLEAR neither `RESULT` nor `FAULTINFO` is readable (10_state.md R22). -/
theorem readValue_of_acknowledge (s : State) :
    readValue .result .b8 (acknowledge s) = (Config.freeWord (acknowledge s).draws, true) ∧
      readValue .faultinfo .b8 (acknowledge s) = (Config.freeWord (acknowledge s).draws, true) := by
  simp only [readValue, acknowledge_status, reduceCtorEq, if_false, and_self]

/-- Settles O7: the acknowledge of STATUS outside BUSY, which changes nothing in IDLE. -/
theorem clearReturnsToIdle : Obligations.ClearReturnsToIdle := by
  refine fun s => ⟨execClear_of_not_busy, execClear_of_busy, fun h hs => ?_, fun t hb ht => ?_⟩
  · exact (execClear_of_not_busy (by simp [hs])).trans (by rw [h.acknowledge_of_idle hs])
  · obtain rfl := Host.Outcome.next.inj ((execClear_of_not_busy hb).symm.trans ht)
    exact readValue_of_acknowledge s

/-! ### Whose turn it is (R214, R216) -/

/-- The host's next move writes to `CMD`. -/
theorem step_of_command {v : Word} {rest : List HostMove} (h : s.inbox = .write 0x000 .b4 v :: rest) :
    step s = issueCommand (lowHalf v) { s with inbox := rest } := step_of_write h

theorem issueCommand_of_decode {w : Half} {i : Instr} (h : decodeWord w = .ok i) (s : State) :
    issueCommand w s = exec i s := by
  simp only [issueCommand, h]

/-- A table row's word is decoded as the word that a host writes for it (30_encoding.md R80). -/
theorem decodeWord_of_decodeTableWord {w : Nat} {i : Instr} (h : decodeTableWord 32 w = some i) :
    decodeWord (BitVec.ofNat 32 (w % 2 ^ 32)) = .ok i := by
  simp only [decodeTableWord, Nat.lt_irrefl, if_false, bytesOfWord, decode, wordOfBytes_of_word] at h
  split at h
  · next hd =>
    split at hd <;> cases hd
    next hw => rw [hw, Option.some.inj h]
  · cases h

theorem lowHalf_ofNat (x : Nat) : lowHalf (BitVec.ofNat 64 x) = BitVec.ofNat 32 x := by
  apply BitVec.eq_of_toNat_eq
  rw [lowHalf_toNat, BitVec.toNat_ofNat, BitVec.toNat_ofNat, Nat.mod_mod_of_dvd _ (by decide)]

/-- Settles O4: the word reaches `CMD` as it is written. -/
theorem stepRunsDecodedCommand : Obligations.StepRunsDecodedCommand := by
  refine ⟨fun s v rest i h hi => ?_, fun s w i h => ?_⟩
  · rw [step_of_command h, issueCommand_of_decode hi]
  · rw [step_of_command (s := s.withFetchWord 32 w) rfl]
    exact (issueCommand_of_decode (by rw [lowHalf_ofNat]; exact decodeWord_of_decodeTableWord h) _)

/-- Settles O5: the engine moves on an empty queue and at a `pass`. -/
theorem stepRunsEngineWhenHostIsSilent : Obligations.StepRunsEngineWhenHostIsSilent := fun s rest =>
  ⟨step_of_silence, fun h => by simp only [step, turn, h]⟩

end Sys2Proof.Machine

namespace Sys2Proof.Machine

variable {s : State}

/-! ### The bytes that the hash depends on (20_memory.md R55, R65) -/

/-- The byte sequences agree on the offsets below `n`. -/
def AgreeBelow (n : Nat) (X Y : Bytes) : Prop := ∀ a < n, X a = Y a

section
variable {n m : Nat} {X Y S T : Bytes} {o io so : Nat}

theorem AgreeBelow.mono {k : Nat} (h : AgreeBelow n X Y) (hk : k ≤ n) : AgreeBelow k X Y :=
  fun a ha => h a (by omega)

theorem AgreeBelow.rd32_congr (h : AgreeBelow n X Y) (ho : o + 4 ≤ n) : rd32 X o = rd32 Y o := by
  simp (disch := omega) only [rd32, h _]

theorem AgreeBelow.rd64_congr (h : AgreeBelow n X Y) (ho : o + 8 ≤ n) : rd64 X o = rd64 Y o := by
  rw [rd64_eq_append, rd64_eq_append, h.rd32_congr (by omega), h.rd32_congr (by omega)]

theorem AgreeBelow.mix16_congr (h : AgreeBelow n X Y) (hS : AgreeBelow m S T) (hio : io + 16 ≤ n)
    (hso : so + 16 ≤ m) (seed : Word) : mix16 X io S so seed = mix16 Y io T so seed := by
  simp (disch := omega) only [mix16, h.rd64_congr, hS.rd64_congr]

theorem AgreeBelow.accumulate_congr (h : AgreeBelow n X Y) (hS : AgreeBelow m S T) (hio : io + 64 ≤ n)
    (hso : so + 64 ≤ m) (acc : Vector Word 8) : accumulate X io S so acc = accumulate Y io T so acc := by
  apply Vector.ext
  intro j hj
  have hnb := neighbour_lt hj
  rw [accumulate_getElem _ _ _ _ _ hj, accumulate_getElem _ _ _ _ _ hj, laneProduct, laneProduct]
  simp (disch := omega) only [h.rd64_congr, hS.rd64_congr]

theorem AgreeBelow.scramble_congr {Z : Nat} (hS : AgreeBelow Z S T) (hZ : 64 ≤ Z) (acc : Vector Word 8) :
    scramble S Z acc = scramble T Z acc := by
  apply Vector.ext
  intro j hj
  rw [scramble_getElem S Z acc hj, scramble_getElem T Z acc hj, hS.rd64_congr (by omega)]

theorem AgreeBelow.mergeSum_congr (hS : AgreeBelow m S T) (hm : 75 ≤ m) (n : Word) (acc : Vector Word 8) :
    mergeSum n S acc = mergeSum n T acc := by
  refine List.foldl_ext _ _ _ fun h p hp => ?_
  rw [List.mem_range] at hp
  rw [hS.rd64_congr (by omega), hS.rd64_congr (by omega)]
end

section
variable {X Y S T : Bytes} {n : Word}

theorem AgreeBelow.hashLong_congr (h : AgreeBelow n.toNat X Y) (hn : 241 ≤ n.toNat) {Z : Nat} (h1 : 136 ≤ Z)
    (h2 : Z ≤ 192) (hS : AgreeBelow Z S T) : hashLong X n S Z = hashLong Y n T Z := by
  have hloop : stripeLoop X n.toNat S Z initAcc = stripeLoop Y n.toNat T Z initAcc := by
    rw [← foldl_stripeSchedule, ← foldl_stripeSchedule]
    refine List.foldl_ext _ _ _ fun acc op hop => ?_
    cases op with
    | scramble => exact hS.scramble_congr (by omega) acc
    | accumulate io so =>
      obtain ⟨hio, hso⟩ := stripeSchedule_within (by omega) h1 h2 hop
      exact h.accumulate_congr hS hio hso acc
  rw [hashLong, hashLong, hloop, mergeAcc, mergeAcc, hS.mergeSum_congr (by omega)]

theorem AgreeBelow.keyedLen1_3_congr (h : AgreeBelow n.toNat X Y) (hS : AgreeBelow 136 S T) (h1 : 1 ≤ n.toNat)
    (h3 : n.toNat ≤ 3) (seed : Word) : keyedLen1_3 X n S seed = keyedLen1_3 Y n T seed := by
  rw [keyedLen1_3, keyedLen1_3, combinedLen1_3_eq_append X h3, combinedLen1_3_eq_append Y h3,
    h 0 (by omega), h (n.toNat / 2) (by omega), h (n.toNat - 1) (by omega), hS.rd32_congr (by omega),
    hS.rd32_congr (by omega)]

theorem AgreeBelow.keyedLen4_8_congr (h : AgreeBelow n.toNat X Y) (hS : AgreeBelow 136 S T) (h4 : 4 ≤ n.toNat)
    (seed : Word) : keyedLen4_8 X n S seed = keyedLen4_8 Y n T seed := by
  rw [keyedLen4_8_eq_append, keyedLen4_8_eq_append, h.rd32_congr (by omega), h.rd32_congr (by omega),
    hS.rd64_congr (by omega), hS.rd64_congr (by omega)]

theorem AgreeBelow.keyedLen9_16_congr (h : AgreeBelow n.toNat X Y) (hS : AgreeBelow 136 S T) (h9 : 9 ≤ n.toNat)
    (seed : Word) : keyedLen9_16 X n S seed = keyedLen9_16 Y n T seed := by
  simp (disch := omega) only [keyedLen9_16, h.rd64_congr, hS.rd64_congr]

theorem AgreeBelow.sumLen17_128_congr (h : AgreeBelow n.toNat X Y) (hS : AgreeBelow 136 S T) (h17 : 17 ≤ n.toNat)
    (h128 : n.toNat ≤ 128) (seed : Word) : sumLen17_128 X n S seed = sumLen17_128 Y n T seed := by
  rw [sumLen17_128_eq_sum, sumLen17_128_eq_sum]
  congr 1
  refine Finset.sum_congr rfl fun i hi => ?_
  rw [Finset.mem_range] at hi
  rw [h.mix16_congr hS (by omega) (by omega), h.mix16_congr hS (by omega) (by omega)]

theorem AgreeBelow.sumLen129_240_congr (h : AgreeBelow n.toNat X Y) (hS : AgreeBelow 136 S T) (h129 : 129 ≤ n.toNat)
    (h240 : n.toNat ≤ 240) (seed : Word) : sumLen129_240 X n S seed = sumLen129_240 Y n T seed := by
  have hfirst : ∀ i ∈ Finset.range 8, mix16 X (16 * i) S (16 * i) seed = mix16 Y (16 * i) T (16 * i) seed := by
    intro i hi
    rw [Finset.mem_range] at hi
    exact h.mix16_congr hS (by omega) (by omega) seed
  have hfurther : ∀ i ∈ Finset.Ico 8 (n.toNat / 16),
      mix16 X (16 * i) S (16 * (i - 8) + 3) seed = mix16 Y (16 * i) T (16 * (i - 8) + 3) seed := by
    intro i hi
    rw [Finset.mem_Ico] at hi
    exact h.mix16_congr hS (by omega) (by omega) seed
  rw [sumLen129_240_eq_sum, sumLen129_240_eq_sum, Finset.sum_congr rfl hfirst, Finset.sum_congr rfl hfurther,
    h.mix16_congr hS (by omega) (by omega)]

/-- A strategy for up to 240 bytes reads its input below the length and 136 bytes of secret; it ignores the secret of
LONG. -/
theorem AgreeBelow.selectHash_congr_of_short (h : AgreeBelow n.toNat X Y) (hS : AgreeBelow 136 S T)
    (h240 : n.toNat ≤ 240) (seed : Word) (L M : Bytes) (Z Z' : Nat) :
    selectHash X n S seed L Z = selectHash Y n T seed M Z' := by
  cases hl : lengthClass n with
  | len0 => simp only [selectHash, hl, hashLen0, keyedLen0, hS.rd64_congr (show 56 + 8 ≤ 136 by omega),
      hS.rd64_congr (show 64 + 8 ≤ 136 by omega)]
  | len1_3 =>
    obtain ⟨h1, h3⟩ := lengthClass_bounds hl
    simp only [selectHash, hl, hashLen1_3, h.keyedLen1_3_congr hS h1 h3]
  | len4_8 => simp only [selectHash, hl, hashLen4_8, h.keyedLen4_8_congr hS (lengthClass_bounds hl).1]
  | len9_16 => simp only [selectHash, hl, hashLen9_16, h.keyedLen9_16_congr hS (lengthClass_bounds hl).1]
  | len17_128 =>
    obtain ⟨h17, h128⟩ := lengthClass_bounds hl
    simp only [selectHash, hl, hashLen17_128, h.sumLen17_128_congr hS h17 h128]
  | len129_240 =>
    simp only [selectHash, hl, hashLen129_240, h.sumLen129_240_congr hS (lengthClass_bounds hl).1 h240]
  | long => exact absurd (lengthClass_bounds hl).1 (Nat.not_le.2 (Nat.lt_succ_of_le h240))

/-- The hash of every length by the bytes that its class reads. -/
theorem AgreeBelow.selectHash_congr (h : AgreeBelow n.toNat X Y) (hS : AgreeBelow 136 S T) {L M : Bytes} {Z : Nat}
    (h1 : 136 ≤ Z) (h2 : Z ≤ 192) (hL : AgreeBelow Z L M) (seed : Word) :
    selectHash X n S seed L Z = selectHash Y n T seed M Z := by
  obtain h240 | h241 := Nat.lt_or_ge 240 n.toNat
  · simp only [selectHash, lengthClass_long h240, h.hashLong_congr h240 h1 h2 hL]
  · exact h.selectHash_congr_of_short hS h241 seed L M Z Z

theorem AgreeBelow.hash64_congr (h : AgreeBelow n.toNat X Y) (p : ShortPathSecret) (seed : Word) :
    hash64 p X n seed = hash64 p Y n seed :=
  h.selectHash_congr (fun _ _ => rfl) (by decide) (by decide) (fun _ _ => rfl) seed

/-- Settles O43: the short strategies read 136 bytes of their secret, LONG those below its size. -/
theorem hashDependsOnItsBytesOnly : Obligations.HashDependsOnItsBytesOnly :=
  ⟨fun p _ _ _ seed h => AgreeBelow.hash64_congr h p seed,
    fun _ _ _ _ _ _ h1 h2 h hS => AgreeBelow.selectHash_congr h (AgreeBelow.mono hS h1) h1 h2 hS 0,
    fun _ _ _ _ Z Z' h240 hS => AgreeBelow.selectHash_congr_of_short (fun _ _ => rfl) hS h240 0 _ _ Z Z'⟩

end

/-- Settles O44: with seed 0 DERIVE leaves the Secret Table as it is. -/
theorem tableAsCustomSecretIsSeedZero : Obligations.TableAsCustomSecretIsSeedZero := fun p inp n => by
  rw [hash64, hash64s, shortSecret_zero, effectiveSecret_zero, Config.engine_secretSize]

end Sys2Proof.Machine

namespace Sys2Proof.Machine

variable {s t u : State}

/-! ### Where an accepted command ends (R210, R211, R215 to R217) -/

/-- What a completed command leaves as it was. -/
theorem CompletedWith.frame {v : Word} (h : CompletedWith v s u) :
    u.faultinfo = s.faultinfo ∧ u.esec = s.esec ∧ SameOperands s u ∧ SameHost s u := by
  obtain ⟨-, h⟩ := h
  cases h
  exact ⟨rfl, rfl, ⟨rfl, rfl, rfl, rfl, fun _ => rfl, fun _ => rfl⟩, ⟨rfl, rfl, rfl⟩⟩

/-- Settles O15: the run from acceptance on, and what completion leaves as it was. -/
theorem hash64Completes : Obligations.Hash64Completes := by
  intro s hr hi hlen hk
  obtain ⟨k, u, hbound, hrun, hu⟩ := accept_hash64_completes (s := s) ⟨rfl, .inl hi⟩ hlen hk
  obtain ⟨hstatus, hresult, -, -⟩ := hu.host_view
  obtain ⟨hinfo, -, hops, hhost⟩ := hu.frame
  exact ⟨_, k, u, issueHash_of_ready hr .hash64, rfl, hbound, hrun, hstatus, hu.1, hresult, hinfo, { hops with },
    { hhost with }⟩

/-- A HASH64S at P_DISPATCH: accepted and its operands checked. -/
def State.checked64s (s : State) : State := { accept .hash64s s with phase := .dispatch }

/-- P_CHECK of a HASH64S whose secret is of a legal size and written, and whose range is in bounds
(60_exceptions.md R231, R232). -/
theorem checkPhase_accept_hash64s (h1 : 136 ≤ s.seclen.toNat) (h2 : s.seclen.toNat ≤ 192)
    (hlen : s.len.toNat ≤ s.bufsz.toNat) (hk : Mem.known s.csec 0 s.seclen.toNat = true) :
    checkPhase (accept .hash64s s) = .next s.checked64s := by
  have hsec : ¬ (s.seclen.toNat < 136 ∨ 192 < s.seclen.toNat) := by omega
  have hbounds : ¬ s.bufsz < s.len := by rw [BitVec.lt_def]; omega
  simp only [checkPhase, accept_latch, if_neg hsec, if_neg hbounds, accept_csec, hk, Bool.not_true, mark_false]
  rfl

/-- What HASH64S has to return is `hash64s` of its operands, with seed 0 (46_commands.md R211, 41_deriver.md R121). -/
theorem hashValue_checked64s (s : State) :
    s.checked64s.hashValue = hash64s s.inputBytes s.len (s.secretBytes (.csec s.seclen.toNat)) s.seclen.toNat := rfl

/-- A HASH64S over a written secret of a legal size and a written range in bounds, accepted with the engine to move,
completes with the hash of its operands within the bound of 70_reset_and_hazards.md R267. -/
theorem accept_hash64s_completes (hturn : (accept .hash64s s).EnginesTurn) (hlen : s.len.toNat ≤ s.bufsz.toNat)
    (hk : Mem.known s.input 0 s.len.toNat = true) (h1 : 136 ≤ s.seclen.toNat) (h2 : s.seclen.toNat ≤ 192)
    (hK : Mem.known s.csec 0 s.seclen.toNat = true) :
    ∃ (k : Nat) (u : State), k ≤ transitionBound s.len.toNat ∧ core.run k (accept .hash64s s) = .next u ∧
      CompletedWith (hash64s s.inputBytes s.len (s.secretBytes (.csec s.seclen.toNat)) s.seclen.toNat)
        s.checked64s u := by
  have hhash : s.checked64s.Hashing :=
    { turn := hturn, secret_wf := decide_eq_true ⟨h1, h2⟩, input_known := hk, secret_known := hK }
  have hcheck := run_move (run_zero _) hturn (checkPhase_accept_hash64s h1 h2 hlen hK)
  obtain ⟨k, u, hbound, hrun, hu⟩ := hhash.completes rfl rfl
  rw [hashValue_checked64s] at hu
  have hsum : 1 + k ≤ k + 2 := by omega
  exact ⟨1 + k, u, hsum.trans hbound, (run_add 1 k hcheck).trans hrun, hu⟩

/-- Settles O16: `P_CHECK` passes to the strategies, which run over the custom secret. -/
theorem hash64sCompletes : Obligations.Hash64sCompletes := by
  intro s hr hi hlen hk h1 h2 hK
  obtain ⟨k, u, hbound, hrun, hu⟩ := accept_hash64s_completes (s := s) ⟨rfl, .inl hi⟩ hlen hk h1 h2 hK
  obtain ⟨hstatus, hresult, -, -⟩ := hu.host_view
  obtain ⟨hinfo, hesec, hops, hhost⟩ := hu.frame
  exact ⟨_, k, u, issueHash_of_ready hr .hash64s, rfl, hbound, hrun, hstatus, hu.1, hresult, hinfo, hesec,
    { hops with }, { hhost with }⟩

/-- A command that has ended rests in DONE or FAULT (60_exceptions.md R246). -/
theorem run_at_rest (hi : s.inbox = []) (hp : s.phase = .done ∨ s.phase = .fault) (k : Nat) :
    core.run k s = .next s := by
  have hstep : step s = .next s := by
    rw [step_of_silence hi]
    exact hp.elim engineMove_done engineMove_fault
  induction k with
  | zero => exact run_zero s
  | succ k ih => rw [run_succ_of_next hstep, ih]

/-- So a run that has ended is in the same state after any further steps. -/
theorem run_of_ended {k n : Nat} (hk : k ≤ n) (hrun : core.run k s = .next t) (hi : t.inbox = [])
    (hp : t.phase = .done ∨ t.phase = .fault) : core.run n s = .next t := by
  rw [← Nat.add_sub_cancel' hk, run_add k _ hrun, run_at_rest hi hp]

/-- A byte of `IN` that holds a value is read as that value. -/
theorem inputBytes_of_known {n a : Nat} (hk : Mem.known s.input 0 n = true) (ha : a < n) :
    some (s.inputBytes a) = Mem.read? s.input a := by
  have hbyte := (Mem.known_iff ..).1 hk a ha
  rw [Nat.zero_add] at hbyte
  obtain ⟨b, hb⟩ := Option.isSome_iff_exists.1 hbyte
  simp [State.inputBytes, hb]

theorem SameOperands.known (h : SameOperands s t) (off k : Nat) :
    Mem.known t.input off k = Mem.known s.input off k := by
  simp only [Mem.known, h.input]

/-- Two states with the same `IN` read the same bytes of it, as far as they are written. -/
theorem SameOperands.inputBytes_agree (h : SameOperands s t) {n : Nat} (hk : Mem.known s.input 0 n = true) :
    AgreeBelow n s.inputBytes t.inputBytes := fun a ha => by
  have hk' : Mem.known t.input 0 n = true := (h.known 0 n).trans hk
  exact Option.some.inj (by rw [inputBytes_of_known hk ha, inputBytes_of_known hk' ha, h.input])

/-- HASH64 in bounds over written input is in DONE after as many transitions as the bound says. -/
theorem run_bound_of_accept_hash64 (hi : s.inbox = []) (hlen : s.len.toNat ≤ s.bufsz.toNat)
    (hk : Mem.known s.input 0 s.len.toNat = true) :
    ∃ u, core.run (transitionBound s.len.toNat) (accept .hash64 s) = .next u ∧
      u.status = { state := .done, fcode := 0, lclass := (lengthClass s.len).code } ∧
      u.result = hash64 Config.engine.shortPathSecret s.inputBytes s.len s.seed := by
  obtain ⟨k, u, hbound, hrun, hu⟩ := accept_hash64_completes (s := s) ⟨rfl, .inl hi⟩ hlen hk
  obtain ⟨hstatus, hresult, hinbox, -⟩ := hu.host_view
  exact ⟨u, run_of_ended hbound hrun (hinbox.trans hi) (.inl hu.1), hstatus, hresult⟩

/-- HASH64 out of bounds is in FAULT after one transition (60_exceptions.md R231). -/
theorem run_one_of_accept_hash64 (hi : s.inbox = []) (hlen : s.bufsz.toNat < s.len.toNat) :
    core.run 1 (accept .hash64 s) = .next (raiseFault fcodeOutOfBounds s.len (accept .hash64 s)) :=
  run_move (run_zero _) ⟨rfl, .inl hi⟩ (if_pos hlen)

/-- Settles O19: both commands fault at P_CHECK by the same test, or both are in DONE at the bound with the hash of the
same bytes. -/
theorem outcomeIndependentOfHistory : Obligations.OutcomeIndependentOfHistory := by
  intro s s' t t' hr hr' hi hi' hops hk ht ht'
  obtain rfl := Host.Outcome.next.inj ((issueHash_of_ready hr .hash64).symm.trans ht)
  obtain rfl := Host.Outcome.next.inj ((issueHash_of_ready hr' .hash64).symm.trans ht')
  obtain hlen | hlen := Nat.lt_or_ge s.bufsz.toNat s.len.toNat
  · have hlen' : s'.bufsz.toNat < s'.len.toNat := by rwa [hops.bufsz, hops.len]
    exact ⟨1, _, _, run_one_of_accept_hash64 hi hlen, run_one_of_accept_hash64 hi' hlen', rfl,
      .inr ⟨rfl, hops.len.symm⟩⟩
  · have hk' : Mem.known s'.input 0 s'.len.toNat = true := by rwa [hops.len, hops.known]
    obtain ⟨u, hrun, hstatus, hresult⟩ := run_bound_of_accept_hash64 hi hlen hk
    obtain ⟨u', hrun', hstatus', hresult'⟩ := run_bound_of_accept_hash64 hi' (by rwa [hops.bufsz, hops.len]) hk'
    rw [hops.len] at hrun' hstatus'
    refine ⟨_, u, u', hrun, hrun', hstatus.trans hstatus'.symm, .inl ⟨by rw [hstatus], ?_⟩⟩
    rw [hresult, hresult', hops.len, hops.seed, (hops.inputBytes_agree hk).hash64_congr]

end Sys2Proof.Machine

namespace Sys2Proof.Machine

variable {s t : State}

/-! ### The rows of Table PHASE (R216) -/

/-- The second state is `s` but for `ACC`, `HACC`, the value wire and the mark of `RESULT`: what the internal operations on a
transition write. -/
inductive SameButValues (s : State) : State → Prop where
  | values (a : Vector Word 8) (h v : Word) (b : Bool) :
    SameButValues s { s with acc := a, hacc := h, out := v, tainted := b }

theorem SameButValues.trans {u : State} (h : SameButValues s t) (h' : SameButValues t u) : SameButValues s u := by
  cases h
  cases h'
  exact .values ..

theorem SameButValues.mark (b : Bool) (s : State) : SameButValues s (mark b s) := .values ..
theorem SameButValues.setOut (v : Word) (s : State) : SameButValues s (setOut v s) := .values ..
theorem SameButValues.setAcc (a : Vector Word 8) (s : State) : SameButValues s (setAcc a s) := .values ..
theorem SameButValues.setHacc (v : Word) (s : State) : SameButValues s (setHacc v s) := .values ..

theorem SameButValues.control (h : SameButValues s t) : SameControl s t := by
  cases h
  constructor <;> rfl

theorem readInput_changes {off k : Nat} (h : readInput off k s = .next t) : SameButValues s t := by
  unfold readInput at h
  split at h <;> cases h
  exact .mark _ s

theorem readSecret_changes {S : SecretOperand} {off k : Nat} (h : readSecret S off k s = .next t) :
    SameButValues s t := by
  unfold readSecret at h
  split at h <;> cases h
  exact .mark _ s

theorem readInputs_changes {l : List (Nat × Nat)} (h : readInputs l s = .next t) : SameButValues s t := by
  induction l generalizing s with
  | nil =>
    cases h
    exact .values ..
  | cons r l ih =>
    obtain ⟨u, hu, h⟩ := andThen_eq_next h
    exact (readInput_changes hu).trans (ih h)

theorem readSecrets_changes {S : SecretOperand} {l : List (Nat × Nat)} (h : readSecrets S l s = .next t) :
    SameButValues s t := by
  induction l generalizing s with
  | nil =>
    cases h
    exact .values ..
  | cons r l ih =>
    obtain ⟨u, hu, h⟩ := andThen_eq_next h
    exact (readSecret_changes hu).trans (ih h)

theorem strategyReads_changes {c : LenClass} {n : Word} {S : SecretOperand} (h : strategyReads c n S s = .next t) :
    SameButValues s t := by
  obtain ⟨x, hx, h⟩ := andThen_eq_next h
  obtain ⟨y, hy, hz⟩ := andThen_eq_next h
  unfold requireClass at hx
  split at hx <;> cases hx
  exact (readInputs_changes hy).trans (readSecrets_changes hz)

theorem mixInto_changes {io so : Nat} (h : mixInto io so s = .next t) : SameButValues s t := by
  obtain ⟨x, hx, h⟩ := andThen_eq_next h
  obtain ⟨y, hy, hx⟩ := andThen_eq_next hx
  obtain ⟨z, hz, hx⟩ := andThen_eq_next hx
  cases hx
  cases h
  exact ((readInput_changes hy).trans (readSecret_changes hz)).trans ((SameButValues.setOut _ z).trans (.setHacc _ _))

theorem execAccumulate_changes {io : Word} {S : SecretOperand} {so : Nat} (h : execAccumulate io S so s = .next t) :
    SameButValues s t := by
  obtain ⟨x, hx, h⟩ := andThen_eq_next h
  obtain ⟨y, hy, h⟩ := andThen_eq_next h
  cases h
  exact ((readInput_changes hx).trans (readSecret_changes hy)).trans (.setAcc _ y)

theorem stripeOf_changes {b : Nat} (h : stripeOf b s = .next t) :
    ∃ u, SameButValues s u ∧ t = setBlock u.blk (u.str + 1) u := by
  obtain ⟨u, hu, h⟩ := andThen_eq_next h
  cases h
  exact ⟨u, execAccumulate_changes hu, rfl⟩

theorem roundLen17_128_changes (h : roundLen17_128 s = .next t) : ∃ u, SameButValues s u ∧ t = countRound u := by
  obtain ⟨x, hx, h⟩ := andThen_eq_next h
  obtain ⟨y, hy, h⟩ := andThen_eq_next h
  cases h
  exact ⟨y, (mixInto_changes hx).trans (mixInto_changes hy), rfl⟩

theorem roundLen129_240_changes (h : roundLen129_240 s = .next t) : ∃ u, SameButValues s u ∧ t = countRound u := by
  unfold roundLen129_240 at h
  split_ifs at h
  all_goals
    obtain ⟨x, hx, h⟩ := andThen_eq_next h
    cases h
  on_goal 2 => exact ⟨_, (mixInto_changes hx).trans ((SameButValues.setOut _ x).trans (.setHacc _ _)), rfl⟩
  all_goals exact ⟨x, mixInto_changes hx, rfl⟩

/-- P_CHECK finds a precondition of the command violated (60_exceptions.md R231, R232). -/
def State.CheckFails (s : State) : Prop :=
  s.latch.bufsz.toNat < s.latch.len.toNat ∨
    s.latch.cmd = .hash64s ∧ (s.latch.seclen.toNat < 136 ∨ 192 < s.latch.seclen.toNat)

/-- Table PHASE as a relation: a transition of the engine from `s`, in the phase given, by its row and the row's
condition. -/
inductive PhaseRow (s : State) : Phase → State → Prop where
  | idle : PhaseRow s .idle s
  | done : PhaseRow s .done s
  | fault : PhaseRow s .fault s
  | checkFails (hf : s.CheckFails) (code : BitVec 4) (info : Word) : PhaseRow s .check (raiseFault code info s)
  | checked64 (hf : ¬ s.CheckFails) (hc : s.latch.cmd = .hash64) : PhaseRow s .check (goto .derive s)
  | checked64s (hf : ¬ s.CheckFails) (hc : s.latch.cmd = .hash64s) (b : Bool) :
    PhaseRow s .check (goto .dispatch (mark b s))
  | derived : PhaseRow s .derive (goto .dispatch { s with esec := deriveSecret ksecBytes s.latch.seed })
  | toShort (hn : s.latch.len.toNat ≤ 16) : PhaseRow s .dispatch (route .short s)
  | toMid (h17 : 17 ≤ s.latch.len.toNat) (h240 : s.latch.len.toNat ≤ 240) :
    PhaseRow s .dispatch (route .mid (startRounds s))
  | toLong (h241 : 241 ≤ s.latch.len.toNat) :
    PhaseRow s .dispatch (route .longBlock (setBlock 0 0 (setAcc initAcc s)))
  | keyed {u : State} (hu : SameButValues s u) : PhaseRow s .short (goto .finish u)
  | round {u : State} (hd : s.roundsDone = false) (hu : SameButValues s u) : PhaseRow s .mid (countRound u)
  | roundsDone (hd : s.roundsDone = false → s.latch.len.toNat < 17 ∨ 240 < s.latch.len.toNat) :
    PhaseRow s .mid (goto .finish s)
  | blockStripe {u : State} (hb : s.blk.toNat < fullBlocks s.latch.len.toNat s.secretOperand.size)
    (hk : s.str.toNat < stripesPerBlock s.secretOperand.size) (hu : SameButValues s u) :
    PhaseRow s .longBlock (setBlock u.blk (u.str + 1) u)
  | blockEnd {u : State} (hb : s.blk.toNat < fullBlocks s.latch.len.toNat s.secretOperand.size)
    (hk : stripesPerBlock s.secretOperand.size ≤ s.str.toNat) (hu : SameButValues s u) :
    PhaseRow s .longBlock (setBlock (u.blk + 1) 0 u)
  | blocksDone (hb : fullBlocks s.latch.len.toNat s.secretOperand.size ≤ s.blk.toNat) :
    PhaseRow s .longBlock (goto .longTail s)
  | tailStripe {u : State} (hk : s.str.toNat < tailStripes s.latch.len.toNat s.secretOperand.size)
    (hu : SameButValues s u) : PhaseRow s .longTail (setBlock u.blk (u.str + 1) u)
  | tailDone (hk : tailStripes s.latch.len.toNat s.secretOperand.size ≤ s.str.toNat) :
    PhaseRow s .longTail (goto .longLast s)
  | lastStripe {u : State} (hu : SameButValues s u) : PhaseRow s .longLast (goto .merge u)
  | merged {u : State} (hu : SameButValues s u) : PhaseRow s .merge (goto .finish u)
  | finished {u : State} (hu : SameButValues s u) : PhaseRow s .finish (complete u)

theorem checkPhase_row (h : checkPhase s = .next t) : PhaseRow s .check t := by
  unfold checkPhase at h
  split at h
  · next hc =>
    split at h <;> cases h
    · next hlen => exact .checkFails (.inl hlen) _ _
    · next hlen =>
      refine .checked64 (fun hf => ?_) hc
      obtain hf | ⟨hc', -⟩ := hf
      · exact hlen hf
      · simp [hc] at hc'
  · next hc =>
    split at h
    · next hz =>
      cases h
      exact .checkFails (.inr ⟨hc, hz⟩) _ _
    · next hz =>
      split at h <;> cases h
      · next hlen => exact .checkFails (.inl hlen) _ _
      · next hlen => exact .checked64s (fun hf => hf.elim hlen fun hf => hz hf.2) hc _

theorem dispatchPhase_row (h : dispatchPhase s = .next t) : PhaseRow s .dispatch t := by
  rw [dispatchPhase_eq] at h
  cases h
  split_ifs with h16 h240
  · exact .toShort h16
  · exact .toMid (Nat.not_le.1 h16) h240
  · exact .toLong (Nat.not_le.1 h240)

theorem shortPhase_row (h : shortPhase s = .next t) : PhaseRow s .short t := by
  obtain ⟨x, hx, h⟩ := andThen_eq_next h
  cases h
  exact .keyed ((strategyReads_changes hx).trans (.setOut _ x))

theorem midPhase_row (h : midPhase s = .next t) : PhaseRow s .mid t := by
  unfold midPhase at h
  split at h
  · next hd =>
    cases h
    exact .roundsDone (by simp [hd])
  · next hd =>
    rw [Bool.not_eq_true] at hd
    cases hl : lengthClass s.latch.len <;> rw [hl] at h
    case len17_128 =>
      obtain ⟨u, hu, rfl⟩ := roundLen17_128_changes h
      exact .round hd hu
    case len129_240 =>
      obtain ⟨u, hu, rfl⟩ := roundLen129_240_changes h
      exact .round hd hu
    all_goals
      have hb := lengthClass_bounds hl
      simp only [LenClass.lenMin, LenClass.lenMax] at hb
      cases h
      exact .roundsDone fun _ => by omega

theorem longBlockPhase_row (h : longBlockPhase s = .next t) : PhaseRow s .longBlock t := by
  unfold longBlockPhase at h
  split_ifs at h with hb hk
  · obtain ⟨u, hu, rfl⟩ := stripeOf_changes h
    exact .blockStripe hb hk hu
  · obtain ⟨x, hx, h⟩ := andThen_eq_next h
    obtain ⟨y, hy, hx⟩ := andThen_eq_next hx
    cases hx
    cases h
    exact .blockEnd hb (Nat.not_lt.1 hk) ((readSecret_changes hy).trans (.setAcc _ y))
  · cases h
    exact .blocksDone (Nat.not_lt.1 hb)

theorem longTailPhase_row (h : longTailPhase s = .next t) : PhaseRow s .longTail t := by
  unfold longTailPhase at h
  split_ifs at h with hk
  · obtain ⟨u, hu, rfl⟩ := stripeOf_changes h
    exact .tailStripe hk hu
  · cases h
    exact .tailDone (Nat.not_lt.1 hk)

/-- Each transition of the engine is one row of the table. -/
theorem engineMove_row (h : engineMove s = .next t) : PhaseRow s s.phase t := by
  unfold engineMove at h
  cases hp : s.phase <;> rw [hp] at h
  case idle =>
    cases h
    exact .idle
  case done =>
    cases h
    exact .done
  case fault =>
    cases h
    exact .fault
  case check => exact checkPhase_row h
  case derive =>
    cases h
    exact .derived
  case dispatch => exact dispatchPhase_row h
  case short => exact shortPhase_row h
  case mid => exact midPhase_row h
  case longBlock => exact longBlockPhase_row h
  case longTail => exact longTailPhase_row h
  case longLast =>
    obtain ⟨u, hu, h⟩ := andThen_eq_next h
    cases h
    exact .lastStripe (execAccumulate_changes hu)
  case merge =>
    obtain ⟨u, hu, h⟩ := andThen_eq_next h
    cases h
    exact .merged ((readSecret_changes hu).trans (.setHacc _ u))
  case finish =>
    rw [finishPhase_eq] at h
    cases h
    exact .finished (.setOut _ s)

end Sys2Proof.Machine

namespace Sys2Proof.Machine

variable {s t : State} {p : Phase}

/-- A transition leaves operands, memory, the latch and the queue alone, and `FAULTINFO` unless it faults. -/
theorem PhaseRow.frame (h : PhaseRow s p t) :
    SameOperands s t ∧ t.latch = s.latch ∧ t.inbox = s.inbox ∧ (t.phase ≠ .fault → t.faultinfo = s.faultinfo) := by
  have hsame : SameOperands s s := ⟨rfl, rfl, rfl, rfl, fun _ => rfl, fun _ => rfl⟩
  cases h with
  | checkFails => exact ⟨{ hsame with }, rfl, rfl, fun hne => absurd rfl hne⟩
  | keyed hu | round _ hu | blockStripe _ _ hu | blockEnd _ _ hu | tailStripe _ hu | lastStripe hu | merged hu
    | finished hu =>
    cases hu
    exact ⟨{ hsame with }, rfl, rfl, fun _ => rfl⟩
  | _ => exact ⟨{ hsame with }, rfl, rfl, fun _ => rfl⟩

/-- The size of the secret operand of the command in flight (41_deriver.md R121). -/
theorem secretOperand_size (s : State) :
    s.secretOperand.size = if s.latch.cmd = .hash64 then 192 else s.latch.seclen.toNat := by
  cases hc : s.latch.cmd with
  | hash64 => obtain h | h := secretOperand_of_hash64 hc <;> rw [h] <;> rfl
  | hash64s => rw [secretOperand_of_hash64s hc]; rfl

theorem State.checkFails_iff (s : State) :
    s.CheckFails ↔ s.latch.bufsz.toNat < s.latch.len.toNat ∨
      s.latch.cmd = .hash64s ∧ (s.secretOperand.size < 136 ∨ 192 < s.secretOperand.size) := by
  cases hc : s.latch.cmd with
  | hash64 => simp [State.CheckFails, hc]
  | hash64s => rw [State.CheckFails, secretOperand_size, hc, if_neg (by decide)]

theorem PhaseRow.of_check (h : PhaseRow s .check t) :
    t.phase =
      if s.latch.bufsz.toNat < s.latch.len.toNat ∨
        s.latch.cmd = .hash64s ∧ (s.secretOperand.size < 136 ∨ 192 < s.secretOperand.size) then .fault
      else if s.latch.cmd = .hash64 then .derive
      else .dispatch := by
  cases h with
  | checkFails hf => rw [if_pos (s.checkFails_iff.1 hf), raiseFault_phase]
  | checked64 hf hc => rw [if_neg (mt s.checkFails_iff.2 hf), if_pos hc, goto_phase]
  | checked64s hf hc => rw [if_neg (mt s.checkFails_iff.2 hf), if_neg (by simp [hc]), goto_phase]

theorem PhaseRow.of_dispatch_short (h : PhaseRow s .dispatch t) (hn : s.latch.len.toNat ≤ 16) : t.phase = .short := by
  cases h with
  | toShort => rfl
  | toMid | toLong => omega

theorem PhaseRow.of_dispatch_mid (h : PhaseRow s .dispatch t) (h17 : 17 ≤ s.latch.len.toNat)
    (h240 : s.latch.len.toNat ≤ 240) : t.phase = .mid ∧ t.rnd = 0 ∧ t.roundsDone = false := by
  cases h with
  | toMid => exact ⟨rfl, rfl, rfl⟩
  | toShort | toLong => omega

theorem PhaseRow.of_dispatch_long (h : PhaseRow s .dispatch t) (h241 : 241 ≤ s.latch.len.toNat) :
    t.phase = .longBlock ∧ t.blk = 0 ∧ t.str = 0 := by
  cases h with
  | toLong => exact ⟨rfl, rfl, rfl⟩
  | toShort | toMid => omega

/-- A round while one remains (log 9, log 10). -/
theorem PhaseRow.of_mid_round (h : PhaseRow s .mid t) (hi : s.Inv) (hp : s.phase = .mid) (hd : s.roundsDone = false) :
    s.rnd.toNat < midRounds s.latch.len ∧ t.phase = .mid ∧ t.rnd = s.rnd + 1 ∧
      (t.roundsDone = true ↔ s.rnd.toNat + 1 = midRounds s.latch.len) := by
  obtain ⟨h17, h240, hrnd⟩ := hi.mid_progress hp
  rw [hd, if_neg Bool.false_ne_true] at hrnd
  cases h with
  | round _ hu =>
    refine ⟨hrnd, hu.control.phase.trans hp, ?_, ?_⟩
    · rw [countRound_rnd, hu.control.rnd]
    · rw [countRound_roundsDone, decide_eq_true_iff, hu.control.rnd, hu.control.latch]
  | roundsDone hn => exact absurd (hn hd) (by omega)

theorem PhaseRow.of_mid_done (h : PhaseRow s .mid t) (hi : s.Inv) (hp : s.phase = .mid) (hd : s.roundsDone = true) :
    s.rnd.toNat = midRounds s.latch.len % 16 ∧ t.phase = .finish := by
  obtain ⟨-, -, hrnd⟩ := hi.mid_progress hp
  rw [hd, if_pos rfl] at hrnd
  cases h with
  | round hd' => rw [hd] at hd'; cases hd'
  | roundsDone => exact ⟨by rw [hrnd]; exact BitVec.toNat_ofNat .., rfl⟩

/-- A stripe of a full block that has one left. -/
theorem PhaseRow.of_block_stripe (h : PhaseRow s .longBlock t) (hp : s.phase = .longBlock)
    (hb : s.blk.toNat < fullBlocks s.latch.len.toNat s.secretOperand.size)
    (hk : s.str.toNat < stripesPerBlock s.secretOperand.size) :
    t.phase = .longBlock ∧ t.blk = s.blk ∧ t.str = s.str + 1 := by
  cases h with
  | blockStripe _ _ hu => exact ⟨hu.control.phase.trans hp, hu.control.blk, by rw [setBlock_str, hu.control.str]⟩
  | blockEnd | blocksDone => omega

/-- The SCRAMBLE of a full block that has none left. -/
theorem PhaseRow.of_block_end (h : PhaseRow s .longBlock t) (hp : s.phase = .longBlock)
    (hb : s.blk.toNat < fullBlocks s.latch.len.toNat s.secretOperand.size)
    (hk : s.str.toNat = stripesPerBlock s.secretOperand.size) :
    t.phase = .longBlock ∧ t.blk = s.blk + 1 ∧ t.str = 0 := by
  cases h with
  | blockEnd _ _ hu => exact ⟨hu.control.phase.trans hp, by rw [setBlock_blk, hu.control.blk], rfl⟩
  | blockStripe | blocksDone => omega

theorem PhaseRow.of_blocks_done (h : PhaseRow s .longBlock t)
    (hb : s.blk.toNat = fullBlocks s.latch.len.toNat s.secretOperand.size) :
    t.phase = .longTail ∧ t.blk = s.blk ∧ t.str = s.str := by
  cases h with
  | blocksDone => exact ⟨rfl, rfl, rfl⟩
  | blockStripe | blockEnd => omega

theorem PhaseRow.of_tail_stripe (h : PhaseRow s .longTail t) (hp : s.phase = .longTail)
    (hk : s.str.toNat < tailStripes s.latch.len.toNat s.secretOperand.size) :
    t.phase = .longTail ∧ t.str = s.str + 1 := by
  cases h with
  | tailStripe _ hu => exact ⟨hu.control.phase.trans hp, by rw [setBlock_str, hu.control.str]⟩
  | tailDone => omega

theorem PhaseRow.of_tail_done (h : PhaseRow s .longTail t)
    (hk : s.str.toNat = tailStripes s.latch.len.toNat s.secretOperand.size) : t.phase = .longLast := by
  cases h with
  | tailDone => rfl
  | tailStripe => omega

/-- Settles O51: the row of the phase, and what the invariant says of its counters. -/
theorem sequencerFollowsTablePhase : Obligations.SequencerFollowsTablePhase := by
  intro s n Z nspb nb nstr rounds h hi hn hZ hspb hnb hnstr hrounds
  obtain rfl : Z = s.secretOperand.size := hZ.trans (secretOperand_size s).symm
  obtain rfl : nspb = stripesPerBlock s.secretOperand.size := hspb
  obtain rfl : n = s.latch.len.toNat := hn
  obtain rfl : nb = fullBlocks s.latch.len.toNat s.secretOperand.size := hnb
  obtain rfl : nstr = tailStripes s.latch.len.toNat s.secretOperand.size := hnstr
  obtain rfl : rounds = midRounds s.latch.len := hrounds
  obtain ⟨t, ht⟩ := h.goes_engineMove
  have hrow := engineMove_row ht
  obtain ⟨hops, hlatch, -, hinfo⟩ := hrow.frame
  have at_phase {p : Phase} (hp : s.phase = p) : PhaseRow s p t := hp ▸ hrow
  refine ⟨t, (step_of_silence hi).trans ht, ?_, fun hp => (at_phase hp).of_check,
    fun hp => by cases at_phase hp; rfl, fun hp => (at_phase hp).of_dispatch_short,
    fun hp => (at_phase hp).of_dispatch_mid, fun hp => (at_phase hp).of_dispatch_long,
    fun hp => by cases at_phase hp; rfl, fun hp => (at_phase hp).of_mid_round h hp,
    fun hp => (at_phase hp).of_mid_done h hp, fun hp => (at_phase hp).of_block_stripe hp,
    fun hp => (at_phase hp).of_block_end hp, fun hp hb => ?_, fun hp => ?_, fun hp => (at_phase hp).of_tail_stripe hp,
    fun hp => (at_phase hp).of_tail_done, fun hp => (h.longTail_progress hp).2, fun hp => by cases at_phase hp; rfl,
    fun hp => by cases at_phase hp; rfl, fun hp => by cases at_phase hp; rfl, hops, hlatch, hinfo⟩
  · rintro (hp | hp | hp) <;> cases at_phase hp <;> rfl
  · obtain ⟨-, -, -, hstr⟩ := h.longBlock_progress hp
    obtain ⟨hphase, hblk, hkept⟩ := (at_phase hp).of_blocks_done hb
    exact ⟨hstr hb, hphase, hblk, hkept.trans (hstr hb)⟩
  · obtain ⟨-, hblk, hstr, -⟩ := h.longBlock_progress hp
    exact ⟨hblk, hstr⟩

end Sys2Proof.Machine

namespace Sys2Proof.Machine

variable {s t : State} {p : Phase}

/-! ### Every command in flight ends (R218) -/

/-- How many transitions are left from P_DISPATCH on, P_DISPATCH itself apart. -/
def State.movesAfterDispatch (s : State) : Nat :=
  if s.latch.len.toNat ≤ 16 then 2
  else if s.latch.len.toNat ≤ 240 then midRounds s.latch.len + 2
  else fullBlocks s.latch.len.toNat s.secretOperand.size * (stripesPerBlock s.secretOperand.size + 1) +
    tailStripes s.latch.len.toNat s.secretOperand.size + 5

/-- How many transitions are left, for P_CHECK at most. -/
def State.movesLeft (s : State) : Nat :=
  match s.phase with
  | .idle | .done | .fault => 0
  | .check => transitionBound s.latch.len.toNat
  | .derive => s.movesAfterDispatch + 2
  | .dispatch => s.movesAfterDispatch + 1
  | .short => 2
  | .mid => if s.roundsDone then 2 else midRounds s.latch.len - s.rnd.toNat + 2
  | .longBlock =>
    fullBlocks s.latch.len.toNat s.secretOperand.size * (stripesPerBlock s.secretOperand.size + 1) -
      (s.blk.toNat * (stripesPerBlock s.secretOperand.size + 1) + s.str.toNat) +
      tailStripes s.latch.len.toNat s.secretOperand.size + 5
  | .longTail => tailStripes s.latch.len.toNat s.secretOperand.size - s.str.toNat + 4
  | .longLast => 3
  | .merge => 2
  | .finish => 1

theorem movesAfterDispatch_le (hz1 : 136 ≤ s.secretOperand.size) (hz2 : s.secretOperand.size ≤ 192) :
    s.movesAfterDispatch ≤ s.latch.len.toNat / 64 + s.latch.len.toNat / 576 + 18 := by
  have hlong := longTransitions_le (n := s.latch.len.toNat) hz1 hz2
  unfold State.movesAfterDispatch
  split_ifs with h16 h240
  · omega
  · have := (midRounds_bounds (Nat.not_le.1 h16) h240).2
    omega
  · omega

/-- Once the checks have passed fewer transitions are left than the bound of 70_reset_and_hazards.md R267. -/
theorem State.Inv.movesLeft_lt (h : s.Inv) (hc : s.phase.checked = true) :
    s.movesLeft < transitionBound s.latch.len.toNat := by
  obtain ⟨hz1, hz2⟩ := h.secret_size hc
  have hafter := movesAfterDispatch_le hz1 hz2
  have hlong := longTransitions_le (n := s.latch.len.toNat) hz1 hz2
  rw [transitionBound, State.movesLeft]
  cases hp : s.phase with
  | idle | done | fault | check => rw [hp] at hc; cases hc
  | mid =>
    obtain ⟨h17, h240, -⟩ := h.mid_progress hp
    have := (midRounds_bounds h17 h240).2
    dsimp only
    split <;> omega
  | _ => dsimp only; omega

theorem State.Inv.movesLeft_le (h : s.Inv) : s.movesLeft ≤ transitionBound s.latch.len.toNat := by
  cases hc : s.phase.checked with
  | true => exact (h.movesLeft_lt hc).le
  | false =>
    rw [State.movesLeft]
    cases hp : s.phase with
    | idle | done | fault => exact Nat.zero_le _
    | check => exact le_rfl
    | _ => rw [hp] at hc; cases hc

/-- The stripes and SCRAMBLEs done so far are fewer than those of all full blocks while a full block is left. -/
theorem blockMoves_lt {b k B K : Nat} (hb : b < B) (hk : k ≤ K) : b * (K + 1) + k < B * (K + 1) :=
  calc b * (K + 1) + k < (b + 1) * (K + 1) := by rw [Nat.add_mul b 1]; omega
    _ ≤ B * (K + 1) := Nat.mul_le_mul_right _ hb

theorem PhaseRow.movesLeft_of_dispatch (h : PhaseRow s .dispatch t) : t.movesLeft = s.movesAfterDispatch := by
  unfold State.movesAfterDispatch
  cases h with
  | toShort h16 =>
    rw [if_pos h16]
    rfl
  | toMid h17 h240 =>
    rw [if_neg (Nat.not_le.2 h17), if_pos h240]
    rfl
  | toLong h241 =>
    have hstart (B K T : Nat) : B * (K + 1) - (0 * (K + 1) + 0) + T + 5 = B * (K + 1) + T + 5 := by
      rw [Nat.zero_mul, Nat.sub_zero]
    rw [if_neg (by omega), if_neg (Nat.not_le.2 h241), ← hstart]
    rfl

theorem PhaseRow.movesLeft_of_mid (h : PhaseRow s .mid t) (hp : s.phase = .mid) (hs : s.Inv) :
    t.movesLeft < s.movesLeft := by
  cases h with
  | round hd hu =>
    obtain ⟨h17, h240, hrnd⟩ := hs.mid_progress hp
    have hmax := (midRounds_bounds h17 h240).2
    rw [hd, if_neg Bool.false_ne_true] at hrnd
    simp only [State.movesLeft, hp, hd, countRound_phase, countRound_roundsDone, countRound_rnd, countRound_latch,
      hu.control.phase, hu.control.rnd, hu.control.latch, decide_eq_true_eq, Bool.false_eq_true, if_false]
    split
    · omega
    · rw [BitVec.toNat_add]
      change _ - (s.rnd.toNat + 1) % 16 + 2 < _
      omega
  | roundsDone =>
    simp only [State.movesLeft, hp, goto_phase]
    split <;> omega

theorem PhaseRow.movesLeft_of_longBlock (h : PhaseRow s .longBlock t) (hp : s.phase = .longBlock) (hs : s.Inv) :
    t.movesLeft < s.movesLeft := by
  obtain ⟨hz1, hz2⟩ := hs.secret_size (by rw [hp]; rfl)
  obtain ⟨-, hblk, hstr, h0⟩ := hs.longBlock_progress hp
  cases h with
  | blockStripe hb hk hu =>
    have hsucc := str_succ_toNat hk (stripesPerBlock_bounds hz1 hz2).2.1
    have hmoves := blockMoves_lt hb hstr
    simp only [State.movesLeft, hp, setBlock_phase, setBlock_latch, secretOperand_setBlock, setBlock_blk, setBlock_str,
      hu.control.phase, hu.control.latch, hu.control.secretOperand, hu.control.blk, hu.control.str, hsucc]
    omega
  | blockEnd hb hk hu =>
    have hfull := fullBlocks_le s.latch.len.isLt hz1 hz2
    have hmoves := blockMoves_lt hb hstr
    have hsucc : (s.blk + 1).toNat = s.blk.toNat + 1 := by bv_omega
    have hnext := Nat.add_mul s.blk.toNat 1 (stripesPerBlock s.secretOperand.size + 1)
    simp only [State.movesLeft, hp, setBlock_phase, setBlock_latch, secretOperand_setBlock, setBlock_blk, setBlock_str,
      hu.control.phase, hu.control.latch, hu.control.secretOperand, hu.control.blk, hsucc, hnext]
    omega
  | blocksDone hb =>
    have hfull := Nat.le_antisymm hblk hb
    simp only [State.movesLeft, hp, goto_phase, goto_latch, goto_secretOperand, goto_str, h0 hfull, hfull]
    omega

theorem PhaseRow.movesLeft_of_longTail (h : PhaseRow s .longTail t) (hp : s.phase = .longTail) (hs : s.Inv) :
    t.movesLeft < s.movesLeft := by
  obtain ⟨hz1, hz2⟩ := hs.secret_size (by rw [hp]; rfl)
  cases h with
  | tailStripe hk hu =>
    have hsucc := str_succ_toNat hk ((tailStripes_lt hz1 hz2).le.trans (stripesPerBlock_bounds hz1 hz2).2.1)
    simp only [State.movesLeft, hp, setBlock_phase, setBlock_latch, secretOperand_setBlock, setBlock_str,
      hu.control.phase, hu.control.latch, hu.control.secretOperand, hu.control.str, hsucc]
    omega
  | tailDone =>
    simp only [State.movesLeft, hp, goto_phase]
    omega

theorem PhaseRow.movesLeft_of_check (h : PhaseRow s .check t) (hp : s.phase = .check) (ht : t.Inv) :
    t.movesLeft < s.movesLeft := by
  cases h with
  | checkFails =>
    simp only [State.movesLeft, hp, raiseFault_phase, transitionBound]
    omega
  | checked64 | checked64s =>
    refine (ht.movesLeft_lt rfl).trans_eq ?_
    simp only [State.movesLeft, hp, goto_latch, mark_latch]

/-- A transition of a command in flight leaves fewer transitions to go. -/
theorem PhaseRow.movesLeft_lt (h : PhaseRow s p t) (hp : s.phase = p) (hs : s.Inv) (ht : t.Inv)
    (hb : p.state = .busy) : t.movesLeft < s.movesLeft := by
  cases p with
  | idle | done | fault => cases hb
  | check => exact h.movesLeft_of_check hp ht
  | derive =>
    cases h
    rw [State.movesLeft, State.movesLeft, hp]
    exact Nat.lt_succ_self _
  | dispatch =>
    rw [h.movesLeft_of_dispatch, State.movesLeft, hp]
    exact Nat.lt_succ_self _
  | mid => exact h.movesLeft_of_mid hp hs
  | longBlock => exact h.movesLeft_of_longBlock hp hs
  | longTail => exact h.movesLeft_of_longTail hp hs
  | short | longLast | merge | finish =>
    cases h
    simp only [State.movesLeft, hp, goto_phase, complete_phase]
    omega

/-- A transition changes `STATUS` only where a command ends (46_commands.md R214). -/
theorem PhaseRow.status (h : PhaseRow s p t) :
    t.status = s.status ∨ p.state = .busy ∧ (t.status.state = .done ∨ t.status.state = .fault) := by
  cases h with
  | checkFails => exact .inr ⟨rfl, .inr rfl⟩
  | finished => exact .inr ⟨rfl, .inl rfl⟩
  | keyed hu | round _ hu | blockStripe _ _ hu | blockEnd _ _ hu | tailStripe _ hu | lastStripe hu | merged hu =>
    exact .inl hu.control.status
  | _ => exact .inl rfl

/-- The step of a command in flight that no host move interrupts. -/
theorem State.Inv.step_of_busy (h : s.Inv) (hb : s.status.state = .busy) (hi : s.inbox = []) :
    ∃ t, step s = .next t ∧ t.Inv ∧ t.status.state ≠ .idle ∧ t.inbox = [] ∧ t.movesLeft < s.movesLeft := by
  obtain ⟨t, ht⟩ := h.goes_engineMove
  have hrow := engineMove_row ht
  have hinv := h.after_engineMove ht
  obtain ⟨-, -, hinbox, -⟩ := hrow.frame
  have hidle : t.status.state ≠ .idle := by
    obtain hst | ⟨-, hst | hst⟩ := hrow.status <;> simp [hst, hb]
  exact ⟨t, (step_of_silence hi).trans ht, hinv, hidle, hinbox.trans hi,
    hrow.movesLeft_lt rfl h hinv (h.state_of_phase ▸ hb)⟩

/-- A command in flight that no host move interrupts is at its end when no transition is left. -/
theorem State.Inv.run_ends (h : s.Inv) (hidle : s.status.state ≠ .idle) (hi : s.inbox = []) :
    ∃ k u, k ≤ s.movesLeft ∧ core.run k s = .next u ∧ (u.status.state = .done ∨ u.status.state = .fault) := by
  induction hm : s.movesLeft using Nat.strongRecOn generalizing s with
  | ind m ih =>
    cases hst : s.status.state with
    | idle => exact absurd hst hidle
    | done => exact ⟨0, s, Nat.zero_le _, run_zero s, .inl hst⟩
    | fault => exact ⟨0, s, Nat.zero_le _, run_zero s, .inr hst⟩
    | busy =>
      obtain ⟨t, hstep, hinv, htidle, hti, hlt⟩ := h.step_of_busy hst hi
      obtain ⟨k, u, hk, hrun, hu⟩ := ih _ (hm ▸ hlt) hinv htidle hti rfl
      exact ⟨k + 1, u, by omega, (run_succ_of_next hstep k).trans hrun, hu⟩

/-- Settles O18: every transition leaves fewer to go, and the bound has room for those of every phase. -/
theorem everyCommandInFlightEnds : Obligations.EveryCommandInFlightEnds := fun s h hb hi => by
  obtain ⟨k, u, hk, hrun, hu⟩ := h.run_ends (by simp [hb]) hi
  exact ⟨k, u, hk.trans h.movesLeft_le, hrun, hu⟩

end Sys2Proof.Machine

namespace Sys2Proof.Machine

variable {s t : State}

/-! ### Table ACCEPT (R214) -/

/-- The state after a write of `w` to `CMD`, by Table ACCEPT. -/
def acceptTable (w : Half) (s : State) : State :=
  match s.status.state with
  | .busy => s
  | .fault => if w = 3 then acknowledge s else s
  | .idle | .done =>
    if w = 0 then s
    else if w = 1 then accept .hash64 s
    else if w = 2 then accept .hash64s s
    else if w = 3 then acknowledge s
    else raiseFault fcodeIllegalCommand (w.setWidth 64) s

/-- The decode of a word by the four words of the commands (30_encoding.md R81, R84). -/
theorem decodeWord_eq (w : Half) :
    decodeWord w =
      if w = 0 then .ok .nop else if w = 1 then .ok .hash64 else if w = 2 then .ok .hash64s
      else if w = 3 then .ok .clear else .error (.illegalCommand w) := by
  simp only [decodeWord_by_number, ← BitVec.toNat_inj]
  rfl

/-- A write to `CMD` does what Table ACCEPT says, for every word in every state. -/
theorem issueCommand_eq (w : Half) (s : State) : issueCommand w s = .next (acceptTable w s) := by
  unfold issueCommand acceptTable
  rw [decodeWord_eq]
  cases hs : s.status.state
  case fault =>
    by_cases h3 : w = 3
    · simp [h3, exec, execClear, hs]
    · rw [if_neg h3, if_neg h3]
      split_ifs <;> simp only [exec, execNop, execHash64, execHash64s, issueHash, illegalCommand, hs]
  all_goals
    split_ifs <;> simp only [exec, execNop, execHash64, execHash64s, execClear, issueHash, illegalCommand, hs]

theorem step_of_command_eq {v : Word} {rest : List HostMove} (h : s.inbox = .write 0x000 .b4 v :: rest) :
    step s = .next (acceptTable (lowHalf v) { s with inbox := rest }) :=
  (step_of_command h).trans (issueCommand_eq _ _)

theorem acceptTable_of_busy (hs : s.status.state = .busy) (w : Half) : acceptTable w s = s := by
  simp only [acceptTable, hs]

theorem acceptTable_of_fault (hs : s.status.state = .fault) (w : Half) :
    acceptTable w s = if w = 3 then acknowledge s else s := by
  simp only [acceptTable, hs]

theorem acceptTable_of_ready (hr : s.ready) (w : Half) :
    acceptTable w s =
      if w = 0 then s
      else if w = 1 then accept .hash64 s
      else if w = 2 then accept .hash64s s
      else if w = 3 then acknowledge s
      else raiseFault fcodeIllegalCommand (w.setWidth 64) s := by
  obtain hs | hs := hr <;> simp only [acceptTable, hs]

/-- The changes of `STATE` by a write to `CMD`. -/
theorem acceptTable_state (w : Half) (s : State) :
    (acceptTable w s).status.state = s.status.state ∨ (s.status.state, (acceptTable w s).status.state) ∈
        [(EngineState.idle, EngineState.busy), (.idle, .fault), (.done, .busy), (.done, .idle), (.done, .fault),
          (.fault, .idle)] := by
  cases hs : s.status.state with
  | busy => simp [acceptTable_of_busy hs, hs]
  | fault =>
    rw [acceptTable_of_fault hs]
    split_ifs <;> simp [hs]
  | idle =>
    rw [acceptTable_of_ready (.inl hs)]
    split_ifs <;> simp [hs]
  | done =>
    rw [acceptTable_of_ready (.inr hs)]
    split_ifs <;> simp [hs]

theorem regTarget_cmd {off : Nat} {w : Width} : regTarget off w = some .cmd ↔ off = 0x000 ∧ w = .b4 := by
  simp only [regTarget, ite_eq_iff, Option.some.injEq, reduceCtorEq, and_false, or_false, and_true]

/-- A write to another register than `CMD` leaves `STATUS` alone. -/
theorem hostWrite_status {off : Nat} {w : Width} {v : Word} (hoff : ¬ (off = 0x000 ∧ w = .b4))
    (h : hostWrite off w v s = .next t) : t.status = s.status := by
  unfold hostWrite at h
  split at h
  case h_1 hr => exact absurd (regTarget_cmd.1 hr) hoff
  case h_2 | h_3 | h_4 | h_5 | h_6 =>
    rw [unlessBusy_eq] at h
    cases h
    split <;> rfl
  case h_7 | h_8 | h_9 | h_10 =>
    cases h
    rfl
  case h_11 => exact absurd h noAccess_ne_next

/-- The engine's turn changes `STATE` only by a completion. -/
theorem State.Inv.engineMove_state (h : s.Inv) (ht : engineMove s = .next t) :
    t.status.state = s.status.state ∨
      s.status.state = .busy ∧ (t.status.state = .done ∨ t.status.state = .fault) := by
  rw [h.state_of_phase]
  obtain hst | hst := (engineMove_row ht).status
  · exact .inl (by rw [hst, h.state_of_phase])
  · exact .inr hst

/-- The four ways in which a step can leave or change `STATE`, by the move it makes. -/
theorem State.Inv.step_state (h : s.Inv) (ht : step s = .next t) :
    t.status.state = s.status.state ∨
    (∃ v rest, s.inbox = .write 0x000 .b4 v :: rest ∧
      (s.status.state, t.status.state) ∈
        [(EngineState.idle, EngineState.busy), (.idle, .fault), (.done, .busy), (.done, .idle), (.done, .fault),
          (.fault, .idle)]) ∨
    ((s.inbox = [] ∨ s.inbox.head? = some .pass ∨ s.inbox.head? = some .wait) ∧
      s.status.state = .busy ∧ (t.status.state = .done ∨ t.status.state = .fault)) ∨
    (s.inbox.head? = some .reset ∧ t.status.state = .idle) := by
  have hqueue (m : List HostMove) : State.Inv { s with inbox := m } := { h with }
  cases hi : s.inbox with
  | nil =>
    exact (h.engineMove_state ((step_of_silence hi).symm.trans ht)).imp_right fun hst => .inr (.inl ⟨.inl rfl, hst⟩)
  | cons m rest =>
    cases m with
    | write off w v =>
      by_cases hoff : off = 0x000 ∧ w = .b4
      · obtain ⟨rfl, rfl⟩ := hoff
        cases (step_of_command_eq hi).symm.trans ht
        exact (acceptTable_state (lowHalf v) { s with inbox := rest }).imp_right fun hst => .inl ⟨v, rest, rfl, hst⟩
      · rw [step_of_write hi] at ht
        exact .inl (congrArg Status.state (hostWrite_status (s := { s with inbox := rest }) hoff ht))
    | read off w =>
      rw [step_of_read hi] at ht
      rw [hostRead_next ht]
      exact .inl rfl
    | store off b =>
      cases (step_of_store hi).symm.trans ht
      exact .inl rfl
    | load off =>
      cases (step_of_load hi).symm.trans ht
      exact .inl rfl
    | pass =>
      rw [(stepRunsEngineWhenHostIsSilent s rest).2 hi] at ht
      exact ((hqueue rest).engineMove_state ht).imp_right fun hst => .inr (.inl ⟨.inr (.inl rfl), hst⟩)
    | wait =>
      by_cases hb : s.status.state = .busy
      · rw [State.EnginesTurn.step_eq ⟨hb, .inr ⟨rest, hi⟩⟩] at ht
        exact (h.engineMove_state ht).imp_right fun hst => .inr (.inl ⟨.inr (.inr rfl), hst⟩)
      · cases (step_of_wait_ended hi hb).symm.trans ht
        exact .inl rfl
    | reset =>
      cases (step_of_reset hi).symm.trans ht
      exact .inr (.inr (.inr ⟨rfl, rfl⟩))

/-- Table ACCEPT read by the state: what each word does there. -/
theorem acceptTable_rows (w : Half) (s : State) :
    (s.status.state = .busy → acceptTable w s = s) ∧
      (s.status.state = .fault → w ≠ 3 → acceptTable w s = s) ∧
      (s.status.state = .fault → w = 3 → (acceptTable w s).status.state = .idle) ∧
      (s.ready → w = 0 → acceptTable w s = s) ∧
      (s.ready → w = 1 ∨ w = 2 → (acceptTable w s).status.state = .busy) ∧
      (s.ready → w = 3 → (acceptTable w s).status.state = .idle) ∧
      (s.ready → 3 < w.toNat → (acceptTable w s).status.state = .fault ∧ (acceptTable w s).status.fcode = 3) := by
  refine ⟨fun hs => acceptTable_of_busy hs w, fun hs hw => ?_, fun hs hw => ?_, fun hr hw => ?_, fun hr hw => ?_,
    fun hr hw => ?_, fun hr hw => ?_⟩
  · rw [acceptTable_of_fault hs, if_neg hw]
  · rw [acceptTable_of_fault hs, if_pos hw, acknowledge_status]
  · rw [acceptTable_of_ready hr, if_pos hw]
  · rw [acceptTable_of_ready hr]
    obtain rfl | rfl := hw <;> rfl
  · rw [acceptTable_of_ready hr, hw]
    rfl
  · have hne (k : Half) (hk : k.toNat ≤ 3) : w ≠ k := by
      rintro rfl
      omega
    rw [acceptTable_of_ready hr, if_neg (hne 0 (by decide)), if_neg (hne 1 (by decide)), if_neg (hne 2 (by decide)),
      if_neg (hne 3 (by decide))]
    exact ⟨rfl, rfl⟩

/-- Settles O10: the rows of the table, and the moves of a step one by one. -/
theorem stateChangesByTableAccept : Obligations.StateChangesByTableAccept :=
  ⟨fun s v rest hi => ⟨_, step_of_command_eq hi, acceptTable_rows (lowHalf v) { s with inbox := rest }⟩,
    fun _ _ h ht => h.step_state ht⟩

end Sys2Proof.Machine

namespace Sys2Proof.Machine

variable {s t : State}

/-! ### The fault keeps until CLEAR or reset (60_exceptions.md R237) -/

/-- FAULT is the state of one phase only. -/
theorem State.Inv.phase_of_fault (h : s.Inv) (hs : s.status.state = .fault) : s.phase = .fault := by
  cases hp : s.phase with
  | fault => rfl
  | _ => simp [h.state_of_phase, hp, Phase.state] at hs

/-- A write to another register than `CMD` reaches at most an operand register or `CSEC` (10_state.md R21, R30). -/
theorem hostWrite_next {off : Nat} {w : Width} {v : Word} (hoff : ¬ (off = 0x000 ∧ w = .b4))
    (h : hostWrite off w v s = .next t) :
    t = { s with seed := t.seed, len := t.len, bufsz := t.bufsz, seclen := t.seclen, csec := t.csec } := by
  unfold hostWrite at h
  split at h
  case h_1 hr => exact absurd (regTarget_cmd.1 hr) hoff
  case h_2 | h_3 | h_4 | h_5 | h_6 =>
    rw [unlessBusy_eq] at h
    cases h
    split <;> rfl
  case h_7 | h_8 | h_9 | h_10 =>
    cases h
    rfl
  case h_11 => exact absurd h noAccess_ne_next

/-- `STATUS`, `FAULTINFO` and `PHASE` of `t` are those of `s`. -/
def SameFault (s t : State) : Prop := t.status = s.status ∧ t.faultinfo = s.faultinfo ∧ t.phase = s.phase

/-- The moves out of FAULT: a write of the word of CLEAR to `CMD`, and reset. -/
def State.ClearOrReset (s : State) : Prop :=
  s.inbox.head? = some .reset ∨ ∃ v rest, s.inbox = .write 0x000 .b4 v :: rest ∧ lowHalf v = 3

/-- A write to `REG` in FAULT. -/
theorem step_of_write_in_fault {off : Nat} {w : Width} {v : Word} {rest : List HostMove} (hs : s.status.state = .fault)
    (hi : s.inbox = .write off w v :: rest) (ht : step s = .next t) :
    SameFault s t ∨ t.status.state = .idle ∧ s.ClearOrReset := by
  by_cases hoff : off = 0x000 ∧ w = .b4
  · obtain ⟨rfl, rfl⟩ := hoff
    rw [step_of_command_eq hi, acceptTable_of_fault (s := { s with inbox := rest }) hs] at ht
    cases ht
    split_ifs with hv
    · exact .inr ⟨rfl, .inr ⟨v, rest, hi, hv⟩⟩
    · exact .inl ⟨rfl, rfl, rfl⟩
  · rw [step_of_write hi] at ht
    rw [hostWrite_next hoff ht]
    exact .inl ⟨rfl, rfl, rfl⟩

/-- Each move of host or engine in FAULT. -/
theorem State.Inv.step_in_fault (h : s.Inv) (hs : s.status.state = .fault) (ht : step s = .next t) :
    SameFault s t ∨ t.status.state = .idle ∧ s.ClearOrReset := by
  have hp := h.phase_of_fault hs
  cases hi : s.inbox with
  | nil =>
    rw [step_of_silence hi, engineMove_fault hp] at ht
    cases ht
    exact .inl ⟨rfl, rfl, rfl⟩
  | cons m rest =>
    cases m with
    | write off w v => exact step_of_write_in_fault hs hi ht
    | read off w =>
      rw [step_of_read hi] at ht
      rw [hostRead_next ht]
      exact .inl ⟨rfl, rfl, rfl⟩
    | store off b =>
      cases (step_of_store hi).symm.trans ht
      exact .inl ⟨rfl, rfl, rfl⟩
    | load off =>
      cases (step_of_load hi).symm.trans ht
      exact .inl ⟨rfl, rfl, rfl⟩
    | pass =>
      rw [(stepRunsEngineWhenHostIsSilent s rest).2 hi,
        engineMove_fault (s := { s with inbox := rest }) hp] at ht
      cases ht
      exact .inl ⟨rfl, rfl, rfl⟩
    | wait =>
      cases (step_of_wait_ended hi (by simp [hs])).symm.trans ht
      exact .inl ⟨rfl, rfl, rfl⟩
    | reset =>
      cases (step_of_reset hi).symm.trans ht
      exact .inr ⟨rfl, .inl (by rw [hi]; rfl)⟩

/-- Settles O14: the moves of host and engine one by one. -/
theorem onlyClearOrResetLeavesFault : Obligations.OnlyClearOrResetLeavesFault := fun _ _ h hs ht => h.step_in_fault hs ht

end Sys2Proof.Machine

namespace Sys2Proof.Machine

variable {s : State} {cmd : HashCommand}

/-! ### Fault entry (60_exceptions.md R230 to R236) -/

/-- The last row of Table ACCEPT: a word above 3 is no command. -/
theorem acceptTable_of_illegal (hr : s.ready) {w : Half} (hw : 3 < w.toNat) :
    acceptTable w s = raiseFault fcodeIllegalCommand (w.setWidth 64) s := by
  have hne (k : Half) (hk : k.toNat ≤ 3) : w ≠ k := by
    rintro rfl
    omega
  rw [acceptTable_of_ready hr, if_neg (hne 0 (by decide)), if_neg (hne 1 (by decide)), if_neg (hne 2 (by decide)),
    if_neg (hne 3 (by decide))]

/-- Settles O11: the last row of Table ACCEPT is fault entry with the word. -/
theorem illegalWordFaults : Obligations.IllegalWordFaults := fun s _ rest hr hi hw =>
  (step_of_command_eq hi).trans (congrArg _ (acceptTable_of_illegal (s := { s with inbox := rest }) hr hw))

/-- A hash command that P_CHECK refuses, from its acceptance to its fault: nothing but `STATUS`, `PHASE`, `FAULTINFO`
and the latch is written (R235, R236). -/
theorem issueHash_faults (hr : s.ready) (hi : s.inbox = []) {code : BitVec 4} {info : Word}
    (hcheck : checkPhase (accept cmd s) = .next (raiseFault code info (accept cmd s))) :
    ∃ t u, issueHash cmd s = .next t ∧ step t = .next u ∧
      u.status = { state := .fault, fcode := code, lclass := 7 } ∧ u.phase = .fault ∧ u.faultinfo = info ∧
      u.result = s.result ∧ SameOperands s u ∧ SameScratch s u ∧ SameHost s u :=
  ⟨_, _, issueHash_of_ready hr cmd, (step_of_silence (s := accept cmd s) hi).trans hcheck, rfl, rfl, rfl, rfl,
    ⟨rfl, rfl, rfl, rfl, fun _ => rfl, fun _ => rfl⟩, ⟨rfl, rfl, rfl, rfl, rfl, rfl, rfl, rfl, rfl⟩, ⟨rfl, rfl, rfl⟩⟩

/-- R231, of HASH64. -/
theorem checkPhase_hash64_out_of_bounds (hlen : s.bufsz.toNat < s.len.toNat) :
    checkPhase (accept .hash64 s) = .next (raiseFault fcodeOutOfBounds s.len (accept .hash64 s)) :=
  if_pos hlen

/-- R232: the size of the secret is tested before the range (R234). -/
theorem checkPhase_hash64s_invalid_secret (hz : s.seclen.toNat < 136 ∨ 192 < s.seclen.toNat) :
    checkPhase (accept .hash64s s) =
      .next (raiseFault fcodeInvalidSecret (s.seclen.setWidth 64) (accept .hash64s s)) :=
  if_pos hz

/-- R231, of HASH64S with a secret of a valid size. -/
theorem checkPhase_hash64s_out_of_bounds (h1 : 136 ≤ s.seclen.toNat) (h2 : s.seclen.toNat ≤ 192)
    (hlen : s.bufsz.toNat < s.len.toNat) :
    checkPhase (accept .hash64s s) = .next (raiseFault fcodeOutOfBounds s.len (accept .hash64s s)) := by
  have hz : ¬ (s.seclen.toNat < 136 ∨ 192 < s.seclen.toNat) := by omega
  exact (if_neg hz).trans (if_pos hlen)

/-- Settles O12: acceptance, then P_CHECK. -/
theorem hash64FaultsOutOfBounds : Obligations.Hash64FaultsOutOfBounds := fun _ hr hi hlen =>
  issueHash_faults hr hi (checkPhase_hash64_out_of_bounds hlen)

/-- Settles O13: acceptance, then the two tests of P_CHECK in their order. -/
theorem hash64sFaultsBySecretThenLength : Obligations.Hash64sFaultsBySecretThenLength := fun _ hr hi =>
  ⟨fun hz => issueHash_faults hr hi (checkPhase_hash64s_invalid_secret hz),
    fun h1 h2 hlen => issueHash_faults hr hi (checkPhase_hash64s_out_of_bounds h1 h2 hlen)⟩

end Sys2Proof.Machine

/-! PROOFS. The statements of 70_reset_and_hazards.md: a command over unwritten bytes takes the course of the same
command over written ones, and a byte that is not written marks `RESULT` when its turn to be read comes. -/

namespace Sys2Proof.Machine

variable {s s' t u : State} {m c : Mem} {a : Nat} {K : Prop}

/-! ### Two runs of one course -/

/-- The second state is `s` but for `IN` and `CSEC`, which are `m` and `c`, the values computed from them, and the mark
of `RESULT`; and if it is not marked, the byte `a` of `m` is unwritten and `K` holds: in use, that `a` is still to be
read. -/
inductive SameCourse (m c : Mem) (a : Nat) (K : Prop) (s : State) : State → Prop where
  | mk (x : Vector Word 8) (h v : Word) (b : Bool) (hb : b = true ∨ Mem.read? m a = none ∧ K) :
    SameCourse m c a K s { s with acc := x, hacc := h, out := v, tainted := b, input := m, csec := c }

namespace SameCourse

theorem imp {K' : Prop} (h : SameCourse m c a K s s') (hK : K → K') : SameCourse m c a K' s s' := by
  obtain ⟨x, h, v, b, hb⟩ := h
  exact .mk x h v b (hb.imp_right (And.imp_right hK))

theorem setOut (h : SameCourse m c a K s s') (v w : Word) : SameCourse m c a K (setOut v s) (setOut w s') := by
  obtain ⟨x, h, _, b, hb⟩ := h
  exact .mk x h w b hb

theorem setAcc (h : SameCourse m c a K s s') (x y : Vector Word 8) :
    SameCourse m c a K (setAcc x s) (setAcc y s') := by
  obtain ⟨_, h, v, b, hb⟩ := h
  exact .mk y h v b hb

theorem setHacc (h : SameCourse m c a K s s') (v w : Word) : SameCourse m c a K (setHacc v s) (setHacc w s') := by
  obtain ⟨x, _, o, b, hb⟩ := h
  exact .mk x w o b hb

theorem goto (h : SameCourse m c a K s s') (p : Phase) : SameCourse m c a K (goto p s) (goto p s') := by
  obtain ⟨x, h, v, b, hb⟩ := h
  exact .mk x h v b hb

theorem setBlock (h : SameCourse m c a K s s') (b : Word) (k : BitVec 5) :
    SameCourse m c a K (setBlock b k s) (setBlock b k s') := by
  obtain ⟨x, h, v, b, hb⟩ := h
  exact .mk x h v b hb

theorem countRound (h : SameCourse m c a K s s') : SameCourse m c a K (countRound s) (countRound s') := by
  obtain ⟨x, h, v, b, hb⟩ := h
  exact .mk x h v b hb

theorem latch (h : SameCourse m c a K s s') : s'.latch = s.latch := by cases h; rfl
theorem phase (h : SameCourse m c a K s s') : s'.phase = s.phase := by cases h; rfl
theorem rnd (h : SameCourse m c a K s s') : s'.rnd = s.rnd := by cases h; rfl
theorem roundsDone (h : SameCourse m c a K s s') : s'.roundsDone = s.roundsDone := by cases h; rfl
theorem blk (h : SameCourse m c a K s s') : s'.blk = s.blk := by cases h; rfl
theorem str (h : SameCourse m c a K s s') : s'.str = s.str := by cases h; rfl
theorem inbox (h : SameCourse m c a K s s') : s'.inbox = s.inbox := by cases h; rfl
theorem secretOperand (h : SameCourse m c a K s s') : s'.secretOperand = s.secretOperand := by cases h; rfl
theorem seedOperand (h : SameCourse m c a K s s') : s'.seedOperand = s.seedOperand := by cases h; rfl

end SameCourse

/-- Where the first operation goes on, so does the second, and on the same course; `K` may speak of the state the first
reaches. -/
def Follows (m c : Mem) (a : Nat) (K : State → Prop) (o o' : Result) : Prop :=
  ∀ t, o = .next t → ∃ t', o' = .next t' ∧ SameCourse m c a (K t) t t'

theorem follows_next {K : State → Prop} (h : SameCourse m c a (K s) s s') :
    Follows m c a K (.next s) (.next s') := by
  rintro _ ⟨⟩
  exact ⟨s', rfl, h⟩

theorem Follows.imp {K K' : State → Prop} {o o' : Result} (h : Follows m c a K o o')
    (hK : ∀ t, o = .next t → K t → K' t) : Follows m c a K' o o' := by
  intro t ht
  obtain ⟨t', ht', hc⟩ := h t ht
  exact ⟨t', ht', hc.imp (hK t ht)⟩

theorem Follows.andThen {K K' : State → Prop} {o o' : Result} {f f' : State → Result} (h : Follows m c a K o o')
    (hf : ∀ u u', o = .next u → SameCourse m c a (K u) u u' → Follows m c a K' (f u) (f' u')) :
    Follows m c a K' (andThen o f) (andThen o' f') := by
  intro t ht
  obtain ⟨u, hu, ht⟩ := andThen_eq_next ht
  obtain ⟨u', hu', hc⟩ := h u hu
  rw [hu', andThen_next]
  exact hf u u' hu hc t ht

/-! ### The reads of the internal operations -/

/-- `a` is none of the `k` bytes from `off` on. -/
def Outside (a off k : Nat) : Prop := a < off ∨ off + k ≤ a

/-- A range that holds an unwritten byte is not known. -/
theorem Mem.known_of_none {off k : Nat} (ha : Mem.read? m a = none) (h : ¬ Outside a off k) :
    Mem.known m off k = false := by
  rw [Outside, not_or, not_lt, not_le] at h
  rw [← Bool.not_eq_true, Mem.known_iff]
  intro hk
  have hbyte := hk (a - off) (by omega)
  rw [Nat.add_sub_cancel' h.1, ha] at hbyte
  cases hbyte

/-- A read of `IN` marks `RESULT` if `a` is among its bytes (U2 of 70_reset_and_hazards.md R263). -/
theorem SameCourse.follows_readInput (h : SameCourse m c a K s s') (off k : Nat) :
    Follows m c a (fun _ => K ∧ Outside a off k) (readInput off k s) (readInput off k s') := by
  intro t ht
  by_cases hk : off + k ≤ s.latch.len.toNat
  · rw [readInput_within hk] at ht
    cases ht
    obtain ⟨x, h, v, b, hb⟩ := h
    refine ⟨_, readInput_within hk, .mk x h v (b || !Mem.known m off k) ?_⟩
    obtain rfl | ⟨ha, hK⟩ := hb
    · exact .inl rfl
    · by_cases hout : Outside a off k
      · exact .inr ⟨ha, hK, hout⟩
      · simp [Mem.known_of_none ha hout]
  · rw [readInput_outside hk] at ht
    cases ht

theorem SameCourse.follows_readSecret (h : SameCourse m c a K s s') (S : SecretOperand) (off k : Nat) :
    Follows m c a (fun _ => K) (readSecret S off k s) (readSecret S off k s') := by
  intro t ht
  by_cases hk : S.wf = true ∧ off + k ≤ S.size
  · rw [readSecret_within hk.1 hk.2] at ht
    cases ht
    obtain ⟨x, h, v, b, hb⟩ := h
    refine ⟨_, readSecret_within hk.1 hk.2, .mk x h v (b || _) ?_⟩
    exact hb.imp_left fun hb => by rw [hb, Bool.true_or]
  · rw [readSecret_outside hk] at ht
    cases ht

theorem SameCourse.follows_readInputs (h : SameCourse m c a K s s') (l : List (Nat × Nat)) :
    Follows m c a (fun _ => K ∧ ∀ r ∈ l, Outside a r.1 r.2) (readInputs l s) (readInputs l s') := by
  induction l generalizing s s' K with
  | nil => exact follows_next (h.imp fun hK => ⟨hK, by simp⟩)
  | cons r l ih =>
    refine (h.follows_readInput r.1 r.2).andThen fun u u' _ hu => (ih hu).imp fun t _ hK => ?_
    exact ⟨hK.1.1, List.forall_mem_cons.2 ⟨hK.1.2, hK.2⟩⟩

theorem SameCourse.follows_readSecrets (h : SameCourse m c a K s s') (S : SecretOperand) (l : List (Nat × Nat)) :
    Follows m c a (fun _ => K) (readSecrets S l s) (readSecrets S l s') := by
  induction l generalizing s s' with
  | nil => exact follows_next h
  | cons r l ih => exact (h.follows_readSecret S r.1 r.2).andThen fun _ _ _ hu => ih hu

/-- The reads of a short strategy leave no byte of the input unread (20_memory.md R55). -/
theorem SameCourse.follows_strategyReads (h : SameCourse m c a K s s') {n : Word} (S : SecretOperand)
    (hK : K → a < n.toNat) :
    Follows m c a (fun _ => False) (strategyReads (lengthClass n) n S s) (strategyReads (lengthClass n) n S s') := by
  unfold strategyReads
  rw [requireClass_of_has (lengthClass_has n), requireClass_of_has (lengthClass_has n)]
  refine (h.follows_readInputs _).andThen fun u u' _ hu => (hu.imp fun hread => ?_).follows_readSecrets S _
  obtain ⟨r, hr, hlo, hhi⟩ := inputReads_cover (lengthClass_bounds rfl) (hK hread.1)
  obtain hout | hout := hread.2 r hr <;> omega

theorem SameCourse.follows_execMix16 (h : SameCourse m c a K s s') (io : Word) (S : SecretOperand) (so : Nat)
    (seed : Word) :
    Follows m c a (fun _ => K ∧ Outside a io.toNat 16) (execMix16 io S so seed s) (execMix16 io S so seed s') :=
  (h.follows_readInput io.toNat 16).andThen fun _ _ _ hu => (hu.follows_readSecret S so 16).andThen fun _ _ _ hv =>
    follows_next (hv.setOut _ _)

theorem SameCourse.follows_execAccumulate (h : SameCourse m c a K s s') (io : Word) (S : SecretOperand) (so : Nat) :
    Follows m c a (fun _ => K ∧ Outside a io.toNat 64) (execAccumulate io S so s) (execAccumulate io S so s') :=
  (h.follows_readInput io.toNat 64).andThen fun _ _ _ hu => (hu.follows_readSecret S so 64).andThen fun _ _ _ hv =>
    follows_next (hv.setAcc _ _)

theorem SameCourse.follows_execScramble (h : SameCourse m c a K s s') (S : SecretOperand) :
    Follows m c a (fun _ => K) (execScramble S s) (execScramble S s') :=
  (h.follows_readSecret S _ _).andThen fun _ _ _ hu => follows_next (hu.setAcc _ _)

theorem SameCourse.follows_mixInto (h : SameCourse m c a K s s') {io : Nat} (so : Nat) (hio : io < 2 ^ 64) :
    Follows m c a (fun _ => K ∧ Outside a io 16) (mixInto io so s) (mixInto io so s') := by
  have hmix := h.follows_execMix16 (BitVec.ofNat 64 io) s.secretOperand so s.seedOperand
  rw [BitVec.toNat_ofNat, Nat.mod_eq_of_lt hio] at hmix
  unfold mixInto
  rw [h.secretOperand, h.seedOperand]
  exact hmix.andThen fun _ _ _ hu => follows_next (hu.setHacc _ _)

/-- Stripe `STR` of block `b` (44_stripe_engine.md R173). -/
theorem SameCourse.follows_stripeOf (h : SameCourse m c a K s s') (b : Nat)
    (hio : b * blockLen s.secretOperand.size + 64 * s.str.toNat < 2 ^ 64) :
    Follows m c a (fun _ => K ∧ Outside a (b * blockLen s.secretOperand.size + 64 * s.str.toNat) 64)
      (stripeOf b s) (stripeOf b s') := by
  have hacc := h.follows_execAccumulate (BitVec.ofNat 64 (b * blockLen s.secretOperand.size + 64 * s.str.toNat))
    s.secretOperand (8 * s.str.toNat)
  rw [BitVec.toNat_ofNat, Nat.mod_eq_of_lt hio] at hacc
  unfold stripeOf
  rw [h.secretOperand, h.str]
  refine hacc.andThen fun u u' _ hu => follows_next ?_
  rw [hu.blk, hu.str]
  exact hu.setBlock _ _

end Sys2Proof.Machine

namespace Sys2Proof.Machine

variable {s s' t u : State} {m c : Mem} {a : Nat} {K : Prop}

/-! ### The byte still to be read -/

/-- A command in flight has byte `a` of its input still to read (20_memory.md R55): in the two mid strategies `RND`
front chunks are read and, up to 128 bytes, as many back chunks (43_dispatch_mid.md R150, R151); in LONG the stripes
counted by `BLK` and `STR` (44_stripe_engine.md R173). -/
def State.ToRead (s : State) (a : Nat) : Prop :=
  a < s.latch.len.toNat ∧
  match s.phase with
  | .dispatch | .short => True
  | .mid => 17 ≤ s.latch.len.toNat ∧ s.latch.len.toNat ≤ 240 ∧ s.roundsDone = false ∧ 16 * s.rnd.toNat ≤ a ∧
      (s.latch.len.toNat ≤ 128 → a + 16 * s.rnd.toNat < s.latch.len.toNat)
  | .longBlock => 241 ≤ s.latch.len.toNat ∧ s.blk.toNat * blockLen s.secretOperand.size + 64 * s.str.toNat ≤ a
  | .longTail => 241 ≤ s.latch.len.toNat ∧
    fullBlocks s.latch.len.toNat s.secretOperand.size * blockLen s.secretOperand.size + 64 * s.str.toNat ≤ a
  | .longLast => 241 ≤ s.latch.len.toNat ∧ s.latch.len.toNat ≤ a + 64
  | .idle | .check | .derive | .merge | .finish | .done | .fault => False

theorem State.toRead_dispatch (hp : s.phase = .dispatch) : s.ToRead a ↔ a < s.latch.len.toNat := by
  rw [State.ToRead, hp]
  simp only [and_true]

theorem State.toRead_mid (hp : s.phase = .mid) : s.ToRead a ↔ a < s.latch.len.toNat ∧ 17 ≤ s.latch.len.toNat ∧
    s.latch.len.toNat ≤ 240 ∧ s.roundsDone = false ∧ 16 * s.rnd.toNat ≤ a ∧
    (s.latch.len.toNat ≤ 128 → a + 16 * s.rnd.toNat < s.latch.len.toNat) := by
  rw [State.ToRead, hp]

theorem State.toRead_longBlock (hp : s.phase = .longBlock) : s.ToRead a ↔ a < s.latch.len.toNat ∧
    241 ≤ s.latch.len.toNat ∧ s.blk.toNat * blockLen s.secretOperand.size + 64 * s.str.toNat ≤ a := by
  rw [State.ToRead, hp]

theorem State.toRead_longTail (hp : s.phase = .longTail) : s.ToRead a ↔ a < s.latch.len.toNat ∧
    241 ≤ s.latch.len.toNat ∧
    fullBlocks s.latch.len.toNat s.secretOperand.size * blockLen s.secretOperand.size + 64 * s.str.toNat ≤ a := by
  rw [State.ToRead, hp]

theorem State.toRead_longLast (hp : s.phase = .longLast) : s.ToRead a ↔ a < s.latch.len.toNat ∧
    241 ≤ s.latch.len.toNat ∧ s.latch.len.toNat ≤ a + 64 := by
  rw [State.ToRead, hp]

/-! ### The transitions of Table PHASE -/

theorem SameCourse.follows_dispatchPhase (h : SameCourse m c a (a < s.latch.len.toNat) s s') :
    Follows m c a (fun t => t.ToRead a) (dispatchPhase s) (dispatchPhase s') := by
  obtain ⟨x, hh, v, b, hb⟩ := h
  rw [dispatchPhase_eq, dispatchPhase_eq]
  refine follows_next ?_
  dsimp only
  split_ifs with h16 h240
  · exact .mk x hh v b (hb.imp_right (And.imp_right fun ha => ⟨ha, trivial⟩))
  · refine .mk x _ v b (hb.imp_right (And.imp_right fun ha => ?_))
    exact ⟨ha, Nat.not_le.1 h16, h240, rfl, Nat.zero_le _, fun _ => ha⟩
  · refine .mk _ hh v b (hb.imp_right (And.imp_right fun ha => ?_))
    exact ⟨ha, Nat.not_le.1 h240, by simp [route]⟩

/-- P_SHORT reads the whole input. -/
theorem SameCourse.follows_shortPhase (h : SameCourse m c a (a < s.latch.len.toNat) s s') :
    Follows m c a (fun t => t.ToRead a) (shortPhase s) (shortPhase s') := by
  unfold shortPhase
  rw [h.latch, h.secretOperand]
  exact (h.follows_strategyReads _ id).andThen fun _ _ _ hu => follows_next (((hu.setOut _ _).goto _).imp False.elim)

/-- A round of LEN17_128 reads a front chunk and a back chunk (R150). -/
theorem SameCourse.follows_roundLen17_128 (h : SameCourse m c a K s s')
    (hK : K → 16 * s.rnd.toNat ≤ a ∧ a + 16 * s.rnd.toNat < s.latch.len.toNat) :
    Follows m c a (fun _ => K ∧ 16 * (s.rnd.toNat + 1) ≤ a ∧ a + 16 * (s.rnd.toNat + 1) < s.latch.len.toNat)
      (roundLen17_128 s) (roundLen17_128 s') := by
  have hlen := s.latch.len.isLt
  unfold roundLen17_128
  rw [h.rnd]
  refine (h.follows_mixInto _ (by omega)).andThen fun u u' hu hc => ?_
  have hcontrol := (mixInto_changes hu).control
  rw [hc.latch, hc.rnd, hcontrol.latch, hcontrol.rnd]
  refine (hc.follows_mixInto _ (by omega)).andThen fun _ _ _ hv => follows_next (hv.countRound.imp ?_)
  rintro ⟨⟨hk, hfront⟩, hback⟩
  obtain ⟨hlo, hhi⟩ := hK hk
  unfold Outside at hfront hback
  exact ⟨hk, by omega, by omega⟩

/-- A round of LEN129_240 reads a chunk, the last one that at the end of the input (R151). -/
theorem SameCourse.follows_roundLen129_240 (h : SameCourse m c a K s s') (h129 : 129 ≤ s.latch.len.toNat)
    (hK : K → 16 * s.rnd.toNat ≤ a ∧ a < s.latch.len.toNat) :
    Follows m c a (fun _ => K ∧ 16 * (s.rnd.toNat + 1) ≤ a) (roundLen129_240 s) (roundLen129_240 s') := by
  have hlen := s.latch.len.isLt
  have hchunk (hk : K ∧ Outside a (16 * s.rnd.toNat) 16) : K ∧ 16 * (s.rnd.toNat + 1) ≤ a := by
    obtain ⟨hlo, -⟩ := hK hk.1
    obtain hout | hout := hk.2
    · omega
    · exact ⟨hk.1, by omega⟩
  unfold roundLen129_240
  rw [h.rnd, h.latch]
  split_ifs with h7 h8 hleft
  · exact (h.follows_mixInto _ (by omega)).andThen fun _ _ _ hu => follows_next (hu.countRound.imp hchunk)
  · exact (h.follows_mixInto _ (by omega)).andThen fun _ _ _ hu =>
      follows_next (((hu.setOut _ _).setHacc _ _).countRound.imp hchunk)
  · exact (h.follows_mixInto _ (by omega)).andThen fun _ _ _ hu => follows_next (hu.countRound.imp hchunk)
  · refine (h.follows_mixInto _ (by omega)).andThen fun _ _ _ hu => follows_next (hu.countRound.imp ?_)
    rintro ⟨hk, hout⟩
    obtain ⟨hlo, hhi⟩ := hK hk
    obtain hout | hout := hout <;> omega

/-- The round counted, where it was not the one that reads `a`: one more is left. -/
theorem State.toRead_countRound (hu : SameControl s u) (hp : s.phase = .mid) (ha : s.ToRead a)
    (hfront : 16 * (s.rnd.toNat + 1) ≤ a)
    (hback : s.latch.len.toNat ≤ 128 → a + 16 * (s.rnd.toNat + 1) < s.latch.len.toNat) : (countRound u).ToRead a := by
  obtain ⟨hlen, h17, h240, -, -, -⟩ := (s.toRead_mid hp).1 ha
  have hleft : s.rnd.toNat + 1 < midRounds s.latch.len := by
    simp only [midRounds, roundsLen17_128, roundsLen129_240]
    split_ifs with h128
    · have := hback h128
      omega
    · omega
  have hrnd : (s.rnd + 1).toNat = s.rnd.toNat + 1 := by
    have := (midRounds_bounds h17 h240).2
    rw [BitVec.toNat_add]
    change (s.rnd.toNat + 1) % 2 ^ 4 = _
    omega
  rw [State.toRead_mid (by rw [countRound_phase, hu.phase, hp]), countRound_latch, countRound_roundsDone,
    countRound_rnd, hu.latch, hu.rnd, hrnd]
  exact ⟨hlen, h17, h240, decide_eq_false hleft.ne, hfront, hback⟩

theorem SameCourse.follows_midPhase (h : SameCourse m c a (s.ToRead a) s s') (hp : s.phase = .mid) :
    Follows m c a (fun t => t.ToRead a) (midPhase s) (midPhase s') := by
  have hread := (s.toRead_mid (a := a) hp).1
  unfold midPhase
  rw [h.roundsDone, h.latch]
  cases hd : s.roundsDone with
  | true =>
    refine follows_next ((h.goto _).imp fun ha => ?_)
    obtain ⟨-, -, -, hleft, -⟩ := hread ha
    rw [hd] at hleft
    cases hleft
  | false =>
    rw [if_neg Bool.false_ne_true, if_neg Bool.false_ne_true]
    cases hl : lengthClass s.latch.len with
    | len17_128 =>
      have h128 : s.latch.len.toNat ≤ 128 := (lengthClass_bounds hl).2
      refine (h.follows_roundLen17_128 fun ha => ?_).imp fun t ht ⟨ha, hfront, hback⟩ => ?_
      · obtain ⟨-, -, -, -, hlo, hhi⟩ := hread ha
        exact ⟨hlo, hhi h128⟩
      · obtain ⟨u, hu, rfl⟩ := roundLen17_128_changes ht
        exact s.toRead_countRound hu.control hp ha hfront fun _ => hback
    | len129_240 =>
      have h129 : 129 ≤ s.latch.len.toNat := (lengthClass_bounds hl).1
      refine (h.follows_roundLen129_240 h129 fun ha => ?_).imp fun t ht ⟨ha, hfront⟩ => ?_
      · obtain ⟨hlen, -, -, -, hlo, -⟩ := hread ha
        exact ⟨hlo, hlen⟩
      · obtain ⟨u, hu, rfl⟩ := roundLen129_240_changes ht
        exact s.toRead_countRound hu.control hp ha hfront fun h128 => absurd h128 (by omega)
    | len0 | len1_3 | len4_8 | len9_16 | long =>
      have hbounds := lengthClass_bounds hl
      simp only [LenClass.lenMin, LenClass.lenMax] at hbounds
      refine follows_next ((h.goto _).imp fun ha => ?_)
      obtain ⟨-, h17, h240, -⟩ := hread ha
      omega

/-- A stripe of a full block, where it was not the one that reads `a`. -/
theorem State.toRead_nextStripe_block (hu : SameControl s u) (hp : s.phase = .longBlock)
    (hS : s.secretOperand.wf = true) (hk : s.str.toNat < stripesPerBlock s.secretOperand.size) (ha : s.ToRead a)
    (hout : Outside a (s.blk.toNat * blockLen s.secretOperand.size + 64 * s.str.toNat) 64) :
    (setBlock u.blk (u.str + 1) u).ToRead a := by
  obtain ⟨hz1, hz2⟩ := SecretOperand.size_of_wf hS
  obtain ⟨hlen, h241, hlo⟩ := (s.toRead_longBlock hp).1 ha
  have hstr := str_succ_toNat hk (stripesPerBlock_bounds hz1 hz2).2.1
  rw [State.toRead_longBlock (by rw [setBlock_phase, hu.phase, hp])]
  simp only [setBlock_latch, setBlock_blk, setBlock_str, secretOperand_setBlock, hu.latch, hu.blk, hu.str,
    hu.secretOperand, hstr]
  obtain hout | hout := hout <;> omega

/-- A full block whose stripes are all read, `a` not among their bytes. -/
theorem State.toRead_nextBlock (hu : SameControl s u) (hp : s.phase = .longBlock) (hS : s.secretOperand.wf = true)
    (hb : s.blk.toNat < fullBlocks s.latch.len.toNat s.secretOperand.size)
    (hk : stripesPerBlock s.secretOperand.size ≤ s.str.toNat) (ha : s.ToRead a) :
    (setBlock (u.blk + 1) 0 u).ToRead a := by
  obtain ⟨hz1, hz2⟩ := SecretOperand.size_of_wf hS
  obtain ⟨hlen, h241, hlo⟩ := (s.toRead_longBlock hp).1 ha
  have hblk : (s.blk + 1).toNat = s.blk.toNat + 1 := by
    have := fullBlocks_le s.latch.len.isLt hz1 hz2
    bv_omega
  have hblock : (s.blk.toNat + 1) * blockLen s.secretOperand.size ≤ a := by
    rw [Nat.add_mul s.blk.toNat 1, Nat.one_mul, blockLen_eq]
    rw [blockLen_eq] at hlo
    omega
  rw [State.toRead_longBlock (by rw [setBlock_phase, hu.phase, hp])]
  simp only [setBlock_latch, setBlock_blk, setBlock_str, secretOperand_setBlock, hu.latch, hu.blk, hu.secretOperand,
    hblk]
  exact ⟨hlen, h241, hblock⟩

theorem SameCourse.follows_longBlockPhase (h : SameCourse m c a (s.ToRead a) s s') (hp : s.phase = .longBlock)
    (hS : s.secretOperand.wf = true) :
    Follows m c a (fun t => t.ToRead a) (longBlockPhase s) (longBlockPhase s') := by
  have hlen := s.latch.len.isLt
  unfold longBlockPhase
  rw [h.latch, h.secretOperand, h.blk, h.str]
  split_ifs with hb hk
  · have hin := blockStripe_within hb hk
    refine (h.follows_stripeOf _ (by omega)).imp fun t ht ⟨ha, hout⟩ => ?_
    obtain ⟨u, hu, rfl⟩ := stripeOf_changes ht
    exact State.toRead_nextStripe_block hu.control hp hS hk ha hout
  · refine (h.follows_execScramble _).andThen fun u u' hu hc => ?_
    rw [hc.blk]
    exact follows_next ((hc.setBlock _ _).imp
      (State.toRead_nextBlock (keepsControl_execScramble _ _ _ hu) hp hS hb (Nat.not_lt.1 hk)))
  · refine follows_next ((h.goto _).imp fun ha => ?_)
    obtain ⟨hlt, h241, hlo⟩ := (s.toRead_longBlock hp).1 ha
    exact ⟨hlt, h241, (Nat.add_le_add_right (Nat.mul_le_mul_right _ (Nat.not_lt.1 hb)) _).trans hlo⟩

/-- Full blocks and tail leave at most one stripe of the input, the last one (R173). -/
theorem stripes_leave_last (n Z : Nat) : n ≤ fullBlocks n Z * blockLen Z + 64 * tailStripes n Z + 64 := by
  have hfull := fullBlocks_mul_le n Z
  rw [tailStripes_eq, Nat.mul_comm (blockLen Z)]
  omega

theorem SameCourse.follows_longTailPhase (h : SameCourse m c a (s.ToRead a) s s') (hp : s.phase = .longTail)
    (hS : s.secretOperand.wf = true) :
    Follows m c a (fun t => t.ToRead a) (longTailPhase s) (longTailPhase s') := by
  have hlen := s.latch.len.isLt
  have hread := (s.toRead_longTail (a := a) hp).1
  obtain ⟨hz1, hz2⟩ := SecretOperand.size_of_wf hS
  have hin := tailStripes_le s.latch.len.toNat s.secretOperand.size
  unfold longTailPhase
  rw [h.latch, h.secretOperand, h.str]
  split_ifs with hk
  · refine (h.follows_stripeOf _ (by omega)).imp fun t ht ⟨ha, hout⟩ => ?_
    obtain ⟨u, hu, rfl⟩ := stripeOf_changes ht
    obtain ⟨hlt, h241, hlo⟩ := hread ha
    have hstr := str_succ_toNat hk ((tailStripes_lt hz1 hz2).le.trans (stripesPerBlock_bounds hz1 hz2).2.1)
    rw [State.toRead_longTail (by rw [setBlock_phase, hu.control.phase, hp])]
    simp only [setBlock_latch, setBlock_str, secretOperand_setBlock, hu.control.latch, hu.control.str,
      hu.control.secretOperand, hstr]
    obtain hout | hout := hout <;> omega
  · refine follows_next ((h.goto _).imp fun ha => ?_)
    obtain ⟨hlt, h241, hlo⟩ := hread ha
    have hlast := stripes_leave_last s.latch.len.toNat s.secretOperand.size
    exact (State.toRead_longLast (goto_phase ..)).2 ⟨hlt, h241, by rw [goto_latch]; omega⟩

/-- P_LONG_LAST reads the end of the input. -/
theorem SameCourse.follows_longLastPhase (h : SameCourse m c a (s.ToRead a) s s') (hp : s.phase = .longLast) :
    Follows m c a (fun t => t.ToRead a) (longLastPhase s) (longLastPhase s') := by
  unfold longLastPhase
  rw [h.latch, h.secretOperand]
  refine (h.follows_execAccumulate _ _ _).andThen fun _ _ _ hu => follows_next ((hu.goto _).imp ?_)
  rintro ⟨ha, hout⟩
  obtain ⟨hlt, h241, hlo⟩ := (s.toRead_longLast hp).1 ha
  have hoff : (s.latch.len - BitVec.ofNat 64 Config.engine.stripeLen).toNat = s.latch.len.toNat - 64 := by
    rw [Config.engine_stripeLen]
    bv_omega
  rw [hoff] at hout
  obtain hout | hout := hout <;> omega

/-- P_MERGE reads no input: where it begins, `RESULT` is marked. -/
theorem SameCourse.follows_mergePhase (h : SameCourse m c a (s.ToRead a) s s') (hp : s.phase = .merge) :
    Follows m c a (fun t => t.ToRead a) (mergePhase s) (mergePhase s') := by
  have hmarked : SameCourse m c a False s s' := h.imp fun ha => by
    rw [State.ToRead, hp] at ha
    exact ha.2
  unfold mergePhase
  rw [h.secretOperand]
  exact (hmarked.follows_readSecret _ _ _).andThen fun _ _ _ hu =>
    follows_next (((hu.setHacc _ _).goto _).imp False.elim)

end Sys2Proof.Machine

namespace Sys2Proof.Machine

variable {s s' t u : State} {m c : Mem} {a : Nat} {K : Prop}

/-! ### The run to P_FINISH -/

/-- A transition between P_DISPATCH and P_FINISH keeps the course. -/
theorem SameCourse.follows_engineMove (h : SameCourse m c a (s.ToRead a) s s') (hS : s.secretOperand.wf = true)
    (hc : s.phase = .dispatch ∨ s.phase.dispatched = true) (hf : s.phase ≠ .finish) :
    Follows m c a (fun t => t.ToRead a) (engineMove s) (engineMove s') := by
  unfold engineMove
  rw [h.phase]
  cases hp : s.phase with
  | dispatch => exact (h.imp And.left).follows_dispatchPhase
  | short => exact (h.imp And.left).follows_shortPhase
  | mid => exact h.follows_midPhase hp
  | longBlock => exact h.follows_longBlockPhase hp hS
  | longTail => exact h.follows_longTailPhase hp hS
  | longLast => exact h.follows_longLastPhase hp
  | merge => exact h.follows_mergePhase hp
  | finish => exact absurd hp hf
  | idle | check | derive | done | fault => simp [hp, Phase.dispatched] at hc

/-- A transition between P_DISPATCH and P_FINISH ends in a phase after P_DISPATCH. -/
theorem PhaseRow.dispatched {p : Phase} (h : PhaseRow s p t) (hs : s.phase = p)
    (hc : p = .dispatch ∨ p.dispatched = true) (hf : p ≠ .finish) : t.phase.dispatched = true := by
  cases h with
  | idle | done | fault | checkFails | checked64 | checked64s | derived => simp [Phase.dispatched] at hc
  | finished => exact absurd rfl hf
  | round _ hu | blockStripe _ _ hu | blockEnd _ _ hu | tailStripe _ hu =>
    exact congrArg Phase.dispatched (hu.control.phase.trans hs)
  | _ => rfl

/-- A run of at least one step begins with one. -/
theorem run_succ_eq_next {k : Nat} (h : core.run (k + 1) s = .next u) :
    ∃ t, step s = .next t ∧ core.run k t = .next u := by
  simp only [Host.Core.run] at h
  split at h
  · next t ht => exact ⟨t, ht, h⟩
  · cases h
  · cases h

/-- From P_FINISH no run comes back to it. -/
theorem run_zero_of_finish {k : Nat} (hi : s.inbox = []) (hp : s.phase = .finish) (hrun : core.run k s = .next u)
    (hu : u.phase = .finish) : k = 0 := by
  cases k with
  | zero => rfl
  | succ k =>
    obtain ⟨t, ht, hrun⟩ := run_succ_eq_next hrun
    rw [step_of_silence hi, engineMove, hp, finishPhase_eq] at ht
    cases ht
    rw [run_at_rest (s := complete (setOut s.finished s)) hi (.inl rfl)] at hrun
    cases hrun
    cases hu

theorem SameCourse.marked (h : SameCourse m c a False s s') : s'.tainted = true := by
  obtain ⟨x, h, v, b, hb⟩ := h
  simpa using hb

/-- Where the first run is at P_FINISH, the second completes. -/
theorem step_finish_of_sameCourse (h : SameCourse m c a K s s') (hi : s.inbox = []) (hp : s.phase = .finish) :
    step s' = .next (complete (setOut s'.finished s')) := by
  rw [step_of_silence (h.inbox.trans hi), ← finishPhase_eq]
  simp only [engineMove, h.phase, hp]

/-- Two runs of one course reach P_FINISH together, and the second with `RESULT` marked. -/
theorem SameCourse.run {k : Nat} (h : SameCourse m c a (s.ToRead a) s s') (hS : s.secretOperand.wf = true)
    (hc : s.phase = .dispatch ∨ s.phase.dispatched = true) (hi : s.inbox = []) (hrun : core.run k s = .next u)
    (hu : u.phase = .finish) : ∃ u', core.run k s' = .next u' ∧ SameCourse m c a False u u' := by
  induction k generalizing s s' with
  | zero =>
    cases hrun
    refine ⟨s', run_zero s', h.imp fun ha => ?_⟩
    rw [State.ToRead, hu] at ha
    exact ha.2
  | succ k ih =>
    have hf : s.phase ≠ .finish := fun hp => Nat.succ_ne_zero k (run_zero_of_finish hi hp hrun hu)
    obtain ⟨t, ht, hrun⟩ := run_succ_eq_next hrun
    rw [step_of_silence hi] at ht
    obtain ⟨t', ht', hcourse⟩ := h.follows_engineMove hS hc hf t ht
    have hrow := engineMove_row ht
    obtain ⟨-, hlatch, hinbox, -⟩ := hrow.frame
    have hsecret : t.secretOperand = s.secretOperand := by rw [State.secretOperand, State.secretOperand, hlatch]
    obtain ⟨u', hrun', hu'⟩ := ih hcourse (hsecret ▸ hS) (.inr (hrow.dispatched rfl hc hf)) (hinbox.trans hi) hrun
    have hstep : step s' = .next t' := (step_of_silence (h.inbox.trans hi)).trans ht'
    exact ⟨u', (run_succ_of_next hstep k).trans hrun', hu'⟩

/-! ### A command over unwritten bytes (U2, U3 of R263) -/

/-- A memory of `n` written bytes. -/
def Mem.filled : Nat → Mem
  | 0 => []
  | n + 1 => Mem.write (Mem.filled n) n 0

theorem Mem.known_filled (n : Nat) : Mem.known (Mem.filled n) 0 n = true := by
  rw [Mem.known_iff]
  induction n with
  | zero => exact fun _ hi => absurd hi (Nat.not_lt_zero _)
  | succ n ih =>
    intro i hi
    rw [Mem.filled, Mem.read?_write]
    split
    · rfl
    · exact ih i (by omega)

theorem secretKnown_of_known {n : Nat} (h : Mem.known s.csec 0 n = true) (S : SecretOperand) :
    s.secretKnown S 0 n = true := by
  cases S with
  | ksec | esec => rfl
  | csec z => exact h

/-- `s` with every byte written that its command may read. -/
def State.written (s : State) : State :=
  { s with input := Mem.filled s.latch.len.toNat, csec := Mem.filled s.secretOperand.size }

theorem SameFlight.inbox (h : SameFlight s u) : u.inbox = s.inbox := by
  cases h
  rfl

theorem State.hashing_written (hturn : s.EnginesTurn) (hS : s.secretOperand.wf = true) : s.written.Hashing where
  turn := hturn
  secret_wf := hS
  input_known := Mem.known_filled _
  secret_known := secretKnown_of_known (s := s.written) (Mem.known_filled _) s.secretOperand

theorem Mem.exists_none_of_not_known {n : Nat} (h : Mem.known m 0 n = false) : ∃ a < n, Mem.read? m a = none := by
  rw [← Bool.not_eq_true, Mem.known_iff] at h
  push Not at h
  obtain ⟨a, ha, hnone⟩ := h
  exact ⟨a, ha, by simpa using hnone⟩

/-- A command at P_DISPATCH whose `RESULT` is marked or whose input has an unwritten byte is on the course of the same
command over written bytes. -/
theorem State.sameCourse_written (hp : s.phase = .dispatch)
    (h : s.tainted = true ∨ Mem.known s.input 0 s.latch.len.toNat = false) :
    ∃ a, SameCourse s.input s.csec a (s.written.ToRead a) s.written s := by
  obtain ht | hk := h
  · exact ⟨0, .mk s.acc s.hacc s.out s.tainted (.inl ht)⟩
  · obtain ⟨a, ha, hnone⟩ := Mem.exists_none_of_not_known hk
    exact ⟨a, .mk s.acc s.hacc s.out s.tainted (.inr ⟨hnone, (State.toRead_dispatch hp).2 ha⟩)⟩

/-- `u` is the engine in DONE after the command that `s` has in flight, with the class of the length in `LCLASS` and a
free value in `RESULT`, the one drawn; the operands are as in `s`. -/
structure CompletedFree (s u : State) : Prop where
  status : u.status = { state := .done, fcode := 0, lclass := (lengthClass s.latch.len).code }
  result : u.result = Config.freeWord s.draws
  draws : u.draws = s.draws + 1
  operands : SameOperands s u

/-- Where the written command is at P_FINISH, the other, of the same course, completes. -/
theorem completedFree_of_sameCourse (hflight : SameFlight (route .dispatch s.written) u)
    (h : SameCourse s.input s.csec a False u t) : CompletedFree s (complete (setOut t.finished t)) := by
  have hmark := h.marked
  cases hflight
  cases h
  obtain rfl := hmark
  exact ⟨rfl, rfl, rfl, ⟨rfl, rfl, rfl, rfl, fun _ => rfl, fun _ => rfl⟩⟩

/-- A command at P_DISPATCH whose `RESULT` is marked or whose input has an unwritten byte completes with a free
`RESULT`, and leaves two transitions of the bound of R267 for P_CHECK and P_DERIVE. -/
theorem State.completes_free (hi : s.inbox = []) (hb : s.status.state = .busy) (hp : s.phase = .dispatch)
    (hS : s.secretOperand.wf = true) (h : s.tainted = true ∨ Mem.known s.input 0 s.latch.len.toNat = false) :
    ∃ k u, k + 2 ≤ transitionBound s.latch.len.toNat ∧ core.run k s = .next u ∧ CompletedFree s u := by
  obtain ⟨t, hmove, hroute, k, u, hk, hrun, hflight, hu, -⟩ :=
    (State.hashing_written ⟨hb, .inl hi⟩ hS).dispatch_reachesFinish
  have hstart : s.written.phase = .dispatch := hp
  have hstep : step s.written = .next t := by
    rw [step_of_silence (s := s.written) hi]
    simp only [engineMove, hstart, hmove]
  obtain ⟨a, hcourse⟩ := State.sameCourse_written hp h
  obtain ⟨v, hrun', hv⟩ := hcourse.run hS (.inl hp) hi ((run_succ_of_next hstep k).trans hrun) hu
  have hflight := hroute.trans hflight
  have hlast := step_finish_of_sameCourse hv (hflight.inbox.trans hi) hu
  refine ⟨k + 1 + 1, _, ?_, (run_add (k + 1) 1 hrun').trans (run_succ_of_next hlast 0),
    completedFree_of_sameCourse hflight hv⟩
  change k ≤ s.latch.len.toNat / 64 + s.latch.len.toNat / 576 + 17 at hk
  rw [transitionBound]
  omega

/-- P_CHECK of a HASH64S whose secret is of a legal size and whose range is in bounds: an unwritten byte of the secret
marks `RESULT` (log 15). -/
theorem checkPhase_accept_hash64s_mark (h1 : 136 ≤ s.seclen.toNat) (h2 : s.seclen.toNat ≤ 192)
    (hlen : s.len.toNat ≤ s.bufsz.toNat) :
    checkPhase (accept .hash64s s) = .next (mark (!Mem.known s.csec 0 s.seclen.toNat) s.checked64s) := by
  have hsec : ¬ (s.seclen.toNat < 136 ∨ 192 < s.seclen.toNat) := by omega
  have hbounds : ¬ s.bufsz < s.len := by rw [BitVec.lt_def]; omega
  exact (if_neg hsec).trans (if_neg hbounds)

/-- HASH64 over a range in bounds with an unwritten byte. -/
theorem accept_hash64_completes_free (hi : s.inbox = []) (hlen : s.len.toNat ≤ s.bufsz.toNat)
    (hk : Mem.known s.input 0 s.len.toNat = false) :
    ∃ k u, k ≤ transitionBound s.len.toNat ∧ core.run k (accept .hash64 s) = .next u ∧ CompletedFree s.derived64 u := by
  obtain ⟨k, u, hbound, hrun, hu⟩ :=
    State.completes_free (s := s.derived64) hi rfl rfl (secretOperand_wf nofun) (.inr hk)
  have hdispatch := run_accept_hash64 ⟨rfl, .inl hi⟩ hlen
  exact ⟨2 + k, u, (Nat.add_comm 2 k).trans_le hbound, (run_add 2 k hdispatch).trans hrun, hu⟩

/-- HASH64S over a range in bounds and a secret of a legal size, an unwritten byte in the one or the other. -/
theorem accept_hash64s_completes_free (hi : s.inbox = []) (hlen : s.len.toNat ≤ s.bufsz.toNat)
    (h1 : 136 ≤ s.seclen.toNat) (h2 : s.seclen.toNat ≤ 192)
    (hk : Mem.known s.input 0 s.len.toNat = false ∨ Mem.known s.csec 0 s.seclen.toNat = false) :
    ∃ k u, k ≤ transitionBound s.len.toNat ∧ core.run k (accept .hash64s s) = .next u ∧
      CompletedFree s.checked64s u := by
  have hmark : (mark (!Mem.known s.csec 0 s.seclen.toNat) s.checked64s).tainted = true ∨
      Mem.known s.input 0 s.len.toNat = false := hk.symm.imp_left fun hk => by rw [hk]; rfl
  obtain ⟨k, u, hbound, hrun, hu⟩ :=
    State.completes_free (s := mark _ s.checked64s) hi rfl rfl (decide_eq_true ⟨h1, h2⟩) hmark
  have hcheck := run_move (run_zero (accept .hash64s s)) ⟨rfl, .inl hi⟩ (checkPhase_accept_hash64s_mark h1 h2 hlen)
  have hsum : 1 + k ≤ k + 2 := by omega
  exact ⟨1 + k, u, hsum.trans hbound, (run_add 1 k hcheck).trans hrun, hu.status, hu.result, hu.draws,
    { hu.operands with }⟩

/-- Settles O17: the command takes the course it takes over written bytes, and by its end an unwritten byte has marked
`RESULT`. -/
theorem unwrittenBytesGiveAFreeResult : Obligations.UnwrittenBytesGiveAFreeResult := by
  refine fun s hr hi hlen => ⟨fun hk => ?_, fun h1 h2 hk => ?_⟩
  · obtain ⟨k, u, hbound, hrun, hu⟩ := accept_hash64_completes_free hi hlen hk
    exact ⟨_, k, u, issueHash_of_ready hr .hash64, hbound, hrun, hu.status, hu.result, hu.draws, { hu.operands with }⟩
  · obtain ⟨k, u, hbound, hrun, hu⟩ := accept_hash64s_completes_free hi hlen h1 h2 hk
    exact ⟨_, k, u, issueHash_of_ready hr .hash64s, hbound, hrun, hu.status, hu.result, hu.draws,
      { hu.operands with }⟩

end Sys2Proof.Machine
